-- ==== Sys2Proof/Word.lean ====
section
/-! DEFINITION. The word types of the signal-timing core (10_state.md, 30_encoding.md).
A word is a bit vector only where the spec gives a width and wraps or slices the value. -/

namespace Sys2Proof

/-- `u32`: clock values, durations, timestamps (R11, R20, R22). -/
abbrev U32 := BitVec 32

/-- An 8-bit payload byte (R88). -/
abbrev Byte := BitVec 8

/-- A pin identifier: an opaque name, 8 bits on the ports (R8, R41, D2). -/
abbrev PinId := BitVec 8

/-- A known command IS its command byte (R91, D11).
`Unknown` is not a byte: a value that may be `Unknown` is an `Option Command`. -/
abbrev Command := Byte

end Sys2Proof
end

