-- ==== Sys2Proof/Config.lean ====
section
/-! DEFINITION. The configuration surface (R6, R8, R36): constants chosen before reset is released.
A record of them is a field of the machine's state that no operation writes, so that every statement over all
states is a statement over all configurations. -/

namespace Sys2Proof

/-- The configuration registers of R36 and the open parameters of R8.
`PWM_PERIOD_US`, `PULSE_MIN_US`, `PULSE_MAX_US` and the NEC durations of R7 are fixed: see `Machine/Params.lean`. -/
structure Config where
  /-- `BUF_CAPACITY`: slots of the timing buffer. -/
  bufCapacity : Nat
  /-- `TICK_US`: microseconds the clock advances per tick. -/
  tickUs : Nat
  /-- `TOL_PCT`: half-width of the tolerance window in percent. -/
  tolPct : Nat
  /-- `COMP_US`: compensation offset, off marks and onto spaces. -/
  compUs : Nat
  /-- `IR_PIN`: the one input pin (OPEN parameter of R8). -/
  irPin : PinId
  /-- `CMD_TABLE` (OPEN parameter of R92): the recognized command bytes. A known command is its byte (R91), so a
  table is no more than the set of bytes it recognizes. -/
  cmdTable : List Byte
  deriving DecidableEq, Repr

/-- The legal configurations: the ranges of R8 (D25), and the one row of `CMD_TABLE` the source gives (R92:
`CMD_TABLE(0x18) = Up`). The spec refuses every other value (U8). -/
def Config.legal (c : Config) : Bool :=
  decide (1 ≤ c.bufCapacity) && decide (1 ≤ c.tickUs) && decide (c.tolPct ≤ 100) && decide (c.compUs < 2 ^ 32)
    && c.cmdTable.contains 0x18#8

/-- FREE VALUE (log entry 4). What slot `k` of the timing buffer reads as while nothing has written it: U4 says
`any value`. No rule reads such a slot, so no state a run reaches depends on it. -/
opaque Config.unwrittenSlot : Nat → U32

end Sys2Proof
end

