-- ==== Sys2Proof/Machine/Params.lean ====
section
/-! DEFINITION. The fixed numbers of R6 and R7, and the configuration this hardware takes (R6, R8). -/

namespace Sys2Proof.Machine

/-- `HDR_MARK_US` (R7). -/
def hdrMarkUs : Nat := 9000
/-- `HDR_SPACE_US` (R7). -/
def hdrSpaceUs : Nat := 4500
/-- `RPT_SPACE_US` (R7). -/
def rptSpaceUs : Nat := 2250
/-- `BIT_MARK_US` (R7). -/
def bitMarkUs : Nat := 560
/-- `ONE_SPACE_US` (R7). -/
def oneSpaceUs : Nat := 1690
/-- `ZERO_SPACE_US` (R7). -/
def zeroSpaceUs : Nat := 560
/-- `FRAME_GAP_US` (R7, D10). -/
def frameGapUs : Nat := 10000
/-- `NBITS` (R7). -/
def nBits : Nat := 32
/-- `MIN_DATA_LEN` (R7). -/
def minDataLen : Nat := 66
/-- `REPEAT_LEN` (R7). -/
def repeatLen : Nat := 3
/-- `MIN_LEN` (R7). -/
def minLen : Nat := 2
/-- `PWM_PERIOD_US` (R6, fixed). -/
def pwmPeriodUs : Nat := 20000
/-- `PULSE_MIN_US` (R6, fixed). -/
def pulseMinUs : Nat := 1000
/-- `PULSE_MAX_US` (R6, fixed). -/
def pulseMaxUs : Nat := 2000
/-- `NEUTRAL_PULSE_US` (R8, D15). -/
def neutralPulseUs : Nat := 1500

/-- `MARK_ABORT_US = HDR_MARK_US × (100 + TOL_PCT) / 100` (R8, R126, D8); the division is exact. -/
def markAbortUs (c : Config) : Nat := hdrMarkUs * (100 + c.tolPct) / 100

/-- `Command::Up` (R92). -/
def upByte : Byte := 0x18#8

/-- The configuration of this hardware: the defaults of R6. DESIGN CHOICE: `IR_PIN` (log entry 2) and `CMD_TABLE`
with the source's one row (log entry 3) are open parameters of R8. -/
def defaultConfig : Config :=
  { bufCapacity := 256, tickUs := 50, tolPct := 25, compUs := 100, irPin := 0xFF#8, cmdTable := [upByte] }

/-- `CLOCK_RESET` (R8, D3). -/
def clockReset : U32 := 0#32
/-- `PREV_LEVEL_RESET` (R8, D4). -/
def prevLevelReset : Bool := true
/-- DESIGN CHOICE (log entry 1): the spec leaves `edge_ref` without a value at reset (R50). -/
def edgeRefReset : U32 := 0#32

end Sys2Proof.Machine
end

