-- ==== Sys2Proof/Machine/Operands.lean ====
section
/-! DEFINITION. Operand forms: the arithmetic primitives of R12, the compensation of measured durations (R140, R141),
the payload's bits and bytes (R87, R88), the command table (R92) and the operand of `set_target` (R95). -/

namespace Sys2Proof.Machine

/-- `sat_sub(a, b)` on `u32` (R12). -/
def satSub (a : U32) (b : Nat) : U32 := BitVec.ofNat 32 (a.toNat - b)

/-- `sat_add(a, b)` on `u32`: saturates at `2^32 − 1` (R12). -/
def satAdd (a : U32) (b : Nat) : U32 := BitVec.ofNat 32 (min (a.toNat + b) (2 ^ 32 - 1))

/-- `comp_mark(d)` (R140). -/
def compMark (c : Config) (d : U32) : U32 := satSub d c.compUs

/-- `comp_space(d)` (R141). -/
def compSpace (c : Config) (d : U32) : U32 := satAdd d c.compUs

/-- `NOT8(b)` (R11). -/
def not8 (b : Byte) : Byte := ~~~b

/-- The number whose bits are `bits`, least significant first: `sum of bit_i × 2^i` (R87). -/
def bitsVal : List Bool → Nat
  | [] => 0
  | b :: bs => b.toNat + 2 * bitsVal bs

/-- The 32-bit payload assembled from the bits in the order received (R87). -/
def payloadOfBits (bits : List Bool) : BitVec 32 := BitVec.ofNat 32 (bitsVal bits)

/-- `b0`, the address (R88). -/
def payB0 (v : BitVec 32) : Byte := v.extractLsb' 0 8
/-- `b1`, the inverted address (R88). -/
def payB1 (v : BitVec 32) : Byte := v.extractLsb' 8 8
/-- `b2`, the command (R88). -/
def payB2 (v : BitVec 32) : Byte := v.extractLsb' 16 8
/-- `b3`, the inverted command (R88). -/
def payB3 (v : BitVec 32) : Byte := v.extractLsb' 24 8

/-- The payload with these four bytes, `b0` the lowest (R65, R107). -/
def payloadOfBytes (b0 b1 b2 b3 : Byte) : BitVec 32 := b3 ++ b2 ++ b1 ++ b0

/-- `CMD_TABLE` (R92): a recognized byte is its own command (R91); any other yields `Unknown`. -/
def cmdLookup (c : Config) (b : Byte) : Option Command :=
  if c.cmdTable.contains b then some b else none

/-- The stored pulse time of `set_target`: `clamp(1000, 2000, floor((9000 + 50 × value) / 9))` (R95, R172). The
divisor is positive, so Lean's integer division is the floor. -/
def pulseOf (value : Int) : BitVec 16 :=
  BitVec.ofInt 16 (max (pulseMinUs : Int) (min (pulseMaxUs : Int) ((9000 + 50 * value) / 9)))

end Sys2Proof.Machine
end

