-- ==== Sys2Proof/Machine/Flags.lean ====
section
/-! DEFINITION. The predicates. The block has no condition codes (R35); what it tests of a value is here: the
tolerance window (R142), the two matches (R143, R144) and the payload's validity (R89). -/

namespace Sys2Proof.Machine

/-- `in_window(c, e)` (R142), by cross-multiplication, no bound rounded (D9). The truncated subtraction is exact:
a negative lower bound and a lower bound 0 admit the same non-negative values. -/
def inWindow (cfg : Config) (c e : Nat) : Bool :=
  decide ((100 - cfg.tolPct) * e ≤ 100 * c) && decide (100 * c ≤ (100 + cfg.tolPct) * e)

/-- `matches_mark(d, e)` (R143). -/
def matchesMark (cfg : Config) (d : U32) (e : Nat) : Bool := inWindow cfg (compMark cfg d).toNat e

/-- `matches_space(d, e)` (R144). -/
def matchesSpace (cfg : Config) (d : U32) (e : Nat) : Bool := inWindow cfg (compSpace cfg d).toNat e

/-- A payload is valid iff `b0 = NOT8(b1)` and `b2 = NOT8(b3)` (R89). -/
def payloadValid (v : BitVec 32) : Bool :=
  decide (payB0 v = not8 (payB1 v)) && decide (payB2 v = not8 (payB3 v))

end Sys2Proof.Machine
end

