-- ==== Sys2Proof/Machine/Nec.lean ====
section
/-! DEFINITION. The NEC decode algorithm (43_nec_decode.md): a pure function of the entries, the cached command and the
configuration (R150). `none` is the sentinel `Unknown`. -/

namespace Sys2Proof.Machine

/-- Entry `k` of a duration list. Every use stands behind a length test (R151). -/
def entryAt (es : List U32) (k : Nat) : U32 := es.getD k 0#32

/-- Step 6 (R156): read `n` bits, each a mark and a space, the one-space test first. -/
def readBits (cfg : Config) : Nat → List U32 → Option (List Bool)
  | 0, _ => some []
  | n + 1, m :: sp :: rest =>
    if matchesMark cfg m bitMarkUs then
      if matchesSpace cfg sp oneSpaceUs then (readBits cfg n rest).map (true :: ·)
      else if matchesSpace cfg sp zeroSpaceUs then (readBits cfg n rest).map (false :: ·)
      else none
    else none
  | _ + 1, _ => none

/-- Steps 7 and 8 (R157, R158): the checksum, then the command table. -/
def decodePayload (cfg : Config) (v : BitVec 32) : Option Command :=
  if payloadValid v then cmdLookup cfg (payB2 v) else none

/-- Entries 0 and 1 are `HDR_MARK` and `RPT_SPACE`: a candidate repeat frame (R85). -/
def isRepeatCandidate (cfg : Config) (es : List U32) : Bool :=
  decide (minLen ≤ es.length) && matchesMark cfg (entryAt es 0) hdrMarkUs
    && matchesSpace cfg (entryAt es 1) rptSpaceUs

/-- A repeat frame (R84): exactly three entries, `HDR_MARK`, `RPT_SPACE`, `BIT_MARK`. -/
def isRepeatFrame (cfg : Config) (es : List U32) : Bool :=
  isRepeatCandidate cfg es && decide (es.length = repeatLen) && matchesMark cfg (entryAt es 2) bitMarkUs

/-- The 32 bits of a data frame (R83), `none` where the entries are no data frame. Entries from 66 on are not
examined. -/
def dataFrameBits (cfg : Config) (es : List U32) : Option (List Bool) :=
  if decide (minDataLen ≤ es.length) && matchesMark cfg (entryAt es 0) hdrMarkUs
      && !matchesSpace cfg (entryAt es 1) rptSpaceUs && matchesSpace cfg (entryAt es 1) hdrSpaceUs then
    readBits cfg nBits (es.drop 2)
  else none

/-- What a data frame decodes to: its payload through steps 7 and 8 (R156 to R158). -/
def decodeDataFrame (cfg : Config) (es : List U32) : Option Command :=
  match dataFrameBits cfg es with
  | none => none
  | some bits => decodePayload cfg (payloadOfBits bits)

/-- `Decode(buf, n, last)` (R159): the eight steps in order, the first failing step answers `Unknown`. The entries
are `buf[0 .. n − 1]`, so `n` is their number. -/
def decodeNec (cfg : Config) (es : List U32) (last : Option Command) : Option Command :=
  if es.length < minLen then none
  else if !matchesMark cfg (entryAt es 0) hdrMarkUs then none
  else if matchesSpace cfg (entryAt es 1) rptSpaceUs then
    if es.length = repeatLen ∧ matchesMark cfg (entryAt es 2) bitMarkUs = true then last else none
  else if !matchesSpace cfg (entryAt es 1) hdrSpaceUs then none
  else if es.length < minDataLen then none
  else
    match readBits cfg nBits (es.drop 2) with
    | none => none
    | some bits => decodePayload cfg (payloadOfBits bits)

end Sys2Proof.Machine
end

