-- ==== Sys2Proof/Syntax.lean ====
section
/-! DEFINITION. The rows of spec/opcode_table.json as one inductive, and what the environment can present to the
block (the ports of R41, a payload word of R88, an entry or a frame of R80 to R85).
The block executes no instruction words (30_encoding.md): a row is a symbol, a frame format, the payload, a command,
an operation, an arm of an update, or a function, and `Instr` has one constructor for each. -/

namespace Sys2Proof

/-- What a handler must not call (R129, U7): the spec gives a handler that does so no meaning. -/
inductive ForbiddenCall where
  | tick | decoderUpdate | schedulerUpdate | configure | onReceive
  deriving DecidableEq, Repr

/-- One call made by the registered handler inside its window (R129). -/
inductive HandlerOp where
  /-- `set_target(index, value)` -/
  | setTarget (index value : Int)
  /-- `add(pin)` -/
  | add (pin : PinId)
  /-- a call that R129 forbids -/
  | forbidden (call : ForbiddenCall)
  deriving DecidableEq, Repr

/-- A handler: the environment's function from a command to a finite sequence of calls (R52). Commands are bytes, so a
finite table represents every such function. A command without a row makes no call. -/
abbrev Handler := List (Command × List HandlerOp)

/-- One constructor per row of spec/opcode_table.json. -/
inductive Instr where
  -- SYM rows: one measured entry `d`, tested as the symbol of that name (R81, R143, R144)
  | hdrMark (d : U32)
  | hdrSpace (d : U32)
  | rptSpace (d : U32)
  | bitMark (d : U32)
  | oneSpace (d : U32)
  | zeroSpace (d : U32)
  -- FRAME rows: a whole list of entries (R83, R84)
  | dataFrame (entries : List U32)
  | repeatFrame (entries : List U32)
  -- PAYLOAD row: the 32-bit payload (R88)
  | necPayload (v : BitVec 32)
  -- CMD rows: a payload whose bytes b2, b3 are those of the command (R92, R93); b0 and b1 are the operands
  | cmdUp (b0 b1 : Byte)
  | cmdDown (b0 b1 : Byte)
  | cmdLeft (b0 b1 : Byte)
  | cmdRight (b0 b1 : Byte)
  | cmdOk (b0 b1 : Byte)
  | cmdDigit1 (b0 b1 : Byte)
  | cmdDigit2 (b0 b1 : Byte)
  | cmdDigit3 (b0 b1 : Byte)
  | cmdDigit4 (b0 b1 : Byte)
  | cmdDigit5 (b0 b1 : Byte)
  | cmdDigit6 (b0 b1 : Byte)
  | cmdDigit7 (b0 b1 : Byte)
  | cmdDigit8 (b0 b1 : Byte)
  | cmdDigit9 (b0 b1 : Byte)
  | cmdDigit0 (b0 b1 : Byte)
  | cmdStar (b0 b1 : Byte)
  | cmdPound (b0 b1 : Byte)
  -- OP rows: the steps of R114. `irIn` is the oracle's answer at this tick (R64); `missed` counts the fires of the
  -- tick source that no pass served before this one (R118; 0 in the normative step)
  | tick (irIn : Bool) (missed : Nat)
  | configure (capacity : Nat)
  | add (pin : PinId)
  | setTarget (index value : Int)
  | onReceive (handler : Handler)
  -- ARM rows: one arm of an update, its guard over the state and the update's arguments (R121 to R129, R173, R174)
  | decIdleStart (now : U32) (level : Bool)
  | decRxAppend (now : U32) (level : Bool)
  | decRxOverflow (level : Bool)
  | decRxFrameEnd (now : U32) (level : Bool)
  | decRxNoiseAbort (now : U32) (level : Bool)
  | decDone
  | decHandlerWindow (c : Command)
  | pwmFall (index : Nat) (now : U32)
  | pwmRise (index : Nat) (now : U32)
  -- FN rows: a call with the arguments of the row's signature
  | decoderUpdate (now : U32) (level : Bool)
  | receivingDispatch (now : U32) (level : Bool)
  | schedulerUpdate (now : U32)
  | compMark (d : U32)
  | compSpace (d : U32)
  | inWindow (c e : Nat)
  | matchesMark (d : U32) (e : Nat)
  | matchesSpace (d : U32) (e : Nat)
  | necDecode (entries : List U32) (last : Option Command)
  deriving DecidableEq, Repr

/-- One request on the operation port of R41 with what the environment supplies beside it: the level of `IR_PIN`
when the request is a tick (R64), how many earlier fires of the tick source no pass served (R118), and the handler
that `on_receive` registers (R128; it has no port). -/
structure OpRequest where
  opCode : BitVec 3
  irIn : Bool
  missed : Nat
  opPin : Byte
  opIndex : BitVec 16
  opValue : BitVec 16
  handler : Handler
  deriving DecidableEq, Repr

/-- What the environment presents to the block in one step. -/
inductive Stimulus where
  /-- port `rst` -/
  | rst
  /-- port `tick` or the operation port (R41, R98) -/
  | op (r : OpRequest)
  /-- a 32-bit payload, bit 0 the first bit received (R65, R87) -/
  | payload (v : BitVec 32)
  /-- the entry at position `k` of a frame (R80) -/
  | entry (k : Nat) (d : U32)
  /-- a whole list of entries (R104) -/
  | frame (entries : List U32)
  deriving DecidableEq, Repr

end Sys2Proof
end

