-- ==== Sys2Proof/WellFormed.lean ====
section
/-! DEFINITION. Which instructions have a stimulus that stands for them, and which of those are well formed: the
operands fit the ports of R41 (U9), a symbol is in its window at its position (R81), a frame has its format (R83,
R84), and a payload that some `CMD` row selects is written as that row. -/

namespace Sys2Proof

open Sys2Proof.Machine

/-- The `ARM` and `FN` rows: parts of a pass (R110, R120, R175) or of the decode function. The spec gives them no
encoding, and no stimulus of the environment reaches them on their own (R114, R206): a tick runs them. -/
def Instr.internal : Instr → Bool
  | .decIdleStart .. | .decRxAppend .. | .decRxOverflow .. | .decRxFrameEnd .. | .decRxNoiseAbort .. | .decDone
  | .decHandlerWindow .. | .pwmFall .. | .pwmRise .. | .decoderUpdate .. | .receivingDispatch ..
  | .schedulerUpdate .. | .compMark .. | .compSpace .. | .inWindow .. | .matchesMark .. | .matchesSpace ..
  | .necDecode .. => true
  | .hdrMark .. | .hdrSpace .. | .rptSpace .. | .bitMark .. | .oneSpace .. | .zeroSpace .. | .dataFrame ..
  | .repeatFrame .. | .necPayload .. | .cmdUp .. | .cmdDown .. | .cmdLeft .. | .cmdRight .. | .cmdOk ..
  | .cmdDigit1 .. | .cmdDigit2 .. | .cmdDigit3 .. | .cmdDigit4 .. | .cmdDigit5 .. | .cmdDigit6 .. | .cmdDigit7 ..
  | .cmdDigit8 .. | .cmdDigit9 .. | .cmdDigit0 .. | .cmdStar .. | .cmdPound .. | .tick .. | .configure .. | .add ..
  | .setTarget .. | .onReceive .. => false

/-- Bits 31 to 16 of the payloads the `CMD` rows select: `b3 = NOT8(b2)` above `b2` (R92, R93, R108). -/
def cmdHighHalves : List (BitVec 16) :=
  [0xE718#16, 0xAD52#16, 0xF708#16, 0xA55A#16, 0xE31C#16, 0xBA45#16, 0xB946#16, 0xB847#16, 0xBB44#16]
    ++ [0xBF40#16, 0xBC43#16, 0xF807#16, 0xEA15#16, 0xF609#16, 0xE619#16, 0xE916#16, 0xF20D#16]

/-- Well-formedness under a configuration. DESIGN CHOICE (log entry 28): a frame may have more entries than `BUF_CAPACITY`. -/
def wellFormed (cfg : Config) (i : Instr) : Bool :=
  match i with
  | .hdrMark d => matchesMark cfg d hdrMarkUs
  | .hdrSpace d => !matchesSpace cfg d rptSpaceUs && matchesSpace cfg d hdrSpaceUs
  | .rptSpace d => matchesSpace cfg d rptSpaceUs
  | .bitMark d => matchesMark cfg d bitMarkUs
  | .oneSpace d => matchesSpace cfg d oneSpaceUs
  | .zeroSpace d => !matchesSpace cfg d oneSpaceUs && matchesSpace cfg d zeroSpaceUs
  | .dataFrame es => (dataFrameBits cfg es).isSome
  | .repeatFrame es => isRepeatFrame cfg es
  | .necPayload v => !cmdHighHalves.contains (v.extractLsb' 16 16)
  | .configure capacity => decide (capacity < 2 ^ 16)
  | .setTarget index value =>
    decide (0 ≤ index) && decide (index < 2 ^ 16) && decide (-(2 ^ 15) ≤ value) && decide (value < 2 ^ 15)
  | .cmdUp .. | .cmdDown .. | .cmdLeft .. | .cmdRight .. | .cmdOk .. | .cmdDigit1 .. | .cmdDigit2 ..
  | .cmdDigit3 .. | .cmdDigit4 .. | .cmdDigit5 .. | .cmdDigit6 .. | .cmdDigit7 .. | .cmdDigit8 .. | .cmdDigit9 ..
  | .cmdDigit0 .. | .cmdStar .. | .cmdPound .. | .tick .. | .add .. | .onReceive .. => true
  | .decIdleStart .. | .decRxAppend .. | .decRxOverflow .. | .decRxFrameEnd .. | .decRxNoiseAbort .. | .decDone
  | .decHandlerWindow .. | .pwmFall .. | .pwmRise .. | .decoderUpdate .. | .receivingDispatch ..
  | .schedulerUpdate .. | .compMark .. | .compSpace .. | .inWindow .. | .matchesMark .. | .matchesSpace ..
  | .necDecode .. => true

end Sys2Proof
end

