-- ==== Sys2Proof/Decode.lean ====
section
/-! DEFINITION. From a stimulus to the row it stands for, and back.
Operations are told apart by `op_code` (R98), payloads by bits 31 to 16 (the `match` and `mask` of the `CMD` rows),
entries and frames by the tolerance windows at their positions (R81, R85). The result of decoding is total; a stimulus
that stands for no row is rejected by name. -/

namespace Sys2Proof

open Sys2Proof.Machine

/-- Why a stimulus stands for no row. -/
inductive Reject where
  /-- `op_code` 5 to 7: no operation (R98, U11) -/
  | noOperation
  /-- an entry that matches no symbol its position admits: `Unknown` (R145) -/
  | noSymbol
  /-- a list of entries that is no frame: `Unknown` (R100) -/
  | noFrame
  deriving DecidableEq, Repr

/-- What decoding a stimulus yields. -/
inductive Decoded where
  | instr (i : Instr)
  /-- port `rst` (R41, R220); no row of the table -/
  | reset
  | rejected (why : Reject)
  deriving DecidableEq, Repr

/-- The operation port (R98). -/
def decodeOp (r : OpRequest) : Decoded :=
  match r.opCode.toNat with
  | 0 => .instr (.tick r.irIn r.missed)
  | 1 => .instr (.configure r.opIndex.toNat)
  | 2 => .instr (.add r.opPin)
  | 3 => .instr (.setTarget r.opIndex.toNat r.opValue.toInt)
  | 4 => .instr (.onReceive r.handler)
  | _ => .rejected .noOperation

/-- The `CMD` row that a payload's bits 31 to 16 select. -/
def commandRow (hi : BitVec 16) (b0 b1 : Byte) : Option Instr :=
  match hi.toNat with
  | 0xE718 => some (.cmdUp b0 b1)
  | 0xAD52 => some (.cmdDown b0 b1)
  | 0xF708 => some (.cmdLeft b0 b1)
  | 0xA55A => some (.cmdRight b0 b1)
  | 0xE31C => some (.cmdOk b0 b1)
  | 0xBA45 => some (.cmdDigit1 b0 b1)
  | 0xB946 => some (.cmdDigit2 b0 b1)
  | 0xB847 => some (.cmdDigit3 b0 b1)
  | 0xBB44 => some (.cmdDigit4 b0 b1)
  | 0xBF40 => some (.cmdDigit5 b0 b1)
  | 0xBC43 => some (.cmdDigit6 b0 b1)
  | 0xF807 => some (.cmdDigit7 b0 b1)
  | 0xEA15 => some (.cmdDigit8 b0 b1)
  | 0xF609 => some (.cmdDigit9 b0 b1)
  | 0xE619 => some (.cmdDigit0 b0 b1)
  | 0xE916 => some (.cmdStar b0 b1)
  | 0xF20D => some (.cmdPound b0 b1)
  | _ => none

/-- A payload word: the `CMD` row that selects it, else the `PAYLOAD` row. -/
def decodePayloadWord (v : BitVec 32) : Instr :=
  (commandRow (v.extractLsb' 16 16) (payB0 v) (payB1 v)).getD (.necPayload v)

/-- An entry at position `k` (R80, R81, R83 to R85): position 0 is a header mark, position 1 is tested as a repeat
space and then as a header space, an even position as a bit mark, an odd one as a one space and then a zero space.
DESIGN CHOICE (log entry 27): positions 66 and above, where the spec names no symbol (R83: not examined), are tested as
bit marks and bit spaces too when an entry is presented alone; within a frame they are not examined. -/
def decodeEntry (cfg : Config) (k : Nat) (d : U32) : Decoded :=
  if k = 0 then
    if matchesMark cfg d hdrMarkUs then .instr (.hdrMark d) else .rejected .noSymbol
  else if k = 1 then
    if matchesSpace cfg d rptSpaceUs then .instr (.rptSpace d)
    else if matchesSpace cfg d hdrSpaceUs then .instr (.hdrSpace d)
    else .rejected .noSymbol
  else if k % 2 = 0 then
    if matchesMark cfg d bitMarkUs then .instr (.bitMark d) else .rejected .noSymbol
  else
    if matchesSpace cfg d oneSpaceUs then .instr (.oneSpace d)
    else if matchesSpace cfg d zeroSpaceUs then .instr (.zeroSpace d)
    else .rejected .noSymbol

/-- A list of entries (R85): a candidate repeat frame is never re-examined as a data frame. DESIGN CHOICE (log entry 28): a
list longer than `BUF_CAPACITY`, which R150 does not speak of, is decoded by the same steps. -/
def decodeFrame (cfg : Config) (es : List U32) : Decoded :=
  if isRepeatCandidate cfg es then
    if isRepeatFrame cfg es then .instr (.repeatFrame es) else .rejected .noFrame
  else if (dataFrameBits cfg es).isSome then .instr (.dataFrame es)
  else .rejected .noFrame

/-- The decoder, total on every stimulus. -/
def decode (cfg : Config) : Stimulus → Decoded
  | .rst => .reset
  | .op r => decodeOp r
  | .payload v => .instr (decodePayloadWord v)
  | .entry k d => decodeEntry cfg k d
  | .frame es => decodeFrame cfg es

/-- A request with every port at zero and no handler. -/
def OpRequest.zero : OpRequest :=
  { opCode := 0#3, irIn := false, missed := 0, opPin := 0#8, opIndex := 0#16, opValue := 0#16, handler := [] }

/-- The payload with these halves: bits 31 to 16, `b1`, `b0` (R88). -/
def commandWord (hi : BitVec 16) (b0 b1 : Byte) : Stimulus := .payload (hi ++ b1 ++ b0)

/-- The encoder: the stimulus that stands for an instruction, `none` for the rows that have none. -/
def encode : Instr → Option Stimulus
  | .hdrMark d => some (.entry 0 d)
  | .hdrSpace d => some (.entry 1 d)
  | .rptSpace d => some (.entry 1 d)
  | .bitMark d => some (.entry 2 d)
  | .oneSpace d => some (.entry 3 d)
  | .zeroSpace d => some (.entry 3 d)
  | .dataFrame es => some (.frame es)
  | .repeatFrame es => some (.frame es)
  | .necPayload v => some (.payload v)
  | .cmdUp b0 b1 => some (commandWord 0xE718#16 b0 b1)
  | .cmdDown b0 b1 => some (commandWord 0xAD52#16 b0 b1)
  | .cmdLeft b0 b1 => some (commandWord 0xF708#16 b0 b1)
  | .cmdRight b0 b1 => some (commandWord 0xA55A#16 b0 b1)
  | .cmdOk b0 b1 => some (commandWord 0xE31C#16 b0 b1)
  | .cmdDigit1 b0 b1 => some (commandWord 0xBA45#16 b0 b1)
  | .cmdDigit2 b0 b1 => some (commandWord 0xB946#16 b0 b1)
  | .cmdDigit3 b0 b1 => some (commandWord 0xB847#16 b0 b1)
  | .cmdDigit4 b0 b1 => some (commandWord 0xBB44#16 b0 b1)
  | .cmdDigit5 b0 b1 => some (commandWord 0xBF40#16 b0 b1)
  | .cmdDigit6 b0 b1 => some (commandWord 0xBC43#16 b0 b1)
  | .cmdDigit7 b0 b1 => some (commandWord 0xF807#16 b0 b1)
  | .cmdDigit8 b0 b1 => some (commandWord 0xEA15#16 b0 b1)
  | .cmdDigit9 b0 b1 => some (commandWord 0xF609#16 b0 b1)
  | .cmdDigit0 b0 b1 => some (commandWord 0xE619#16 b0 b1)
  | .cmdStar b0 b1 => some (commandWord 0xE916#16 b0 b1)
  | .cmdPound b0 b1 => some (commandWord 0xF20D#16 b0 b1)
  | .tick irIn missed => some (.op { OpRequest.zero with opCode := 0#3, irIn := irIn, missed := missed })
  | .configure capacity => some (.op { OpRequest.zero with opCode := 1#3, opIndex := BitVec.ofNat 16 capacity })
  | .add pin => some (.op { OpRequest.zero with opCode := 2#3, opPin := pin })
  | .setTarget index value =>
    some (.op { OpRequest.zero with opCode := 3#3, opIndex := BitVec.ofInt 16 index, opValue := BitVec.ofInt 16 value })
  | .onReceive handler => some (.op { OpRequest.zero with opCode := 4#3, handler := handler })
  | .decIdleStart .. | .decRxAppend .. | .decRxOverflow .. | .decRxFrameEnd .. | .decRxNoiseAbort .. | .decDone
  | .decHandlerWindow .. | .pwmFall .. | .pwmRise .. | .decoderUpdate .. | .receivingDispatch ..
  | .schedulerUpdate .. | .compMark .. | .compSpace .. | .inWindow .. | .matchesMark .. | .matchesSpace ..
  | .necDecode .. => none

/-- The stimulus for the low `nbits` bits `w` of a table row, every bit above zero. A row of 32 bits is a payload
(R88). Any other is the operation port, laid flat for this function alone: `op_code` in bits 2 to 0, `ir_in` in
bit 3, `op_pin` in bits 15 to 8, `op_index` in bits 31 to 16, `op_value` in bits 47 to 32 (log entry 7). -/
def tableStimulus (nbits w : Nat) : Stimulus :=
  let x := w % 2 ^ nbits
  if nbits = 32 then .payload (BitVec.ofNat 32 x)
  else .op
    { opCode := BitVec.ofNat 3 x, irIn := x.testBit 3, missed := 0, opPin := BitVec.ofNat 8 (x / 2 ^ 8),
      opIndex := BitVec.ofNat 16 (x / 2 ^ 16), opValue := BitVec.ofNat 16 (x / 2 ^ 32), handler := [] }

/-- The instruction the decoder reads from a word of the opcode table, under the configuration of this hardware. -/
def decodeTableWord (nbits w : Nat) : Option Instr :=
  match decode defaultConfig (tableStimulus nbits w) with
  | .instr i => some i
  | .reset => none
  | .rejected _ => none

end Sys2Proof
end

