-- ==== Sys2Proof/Machine/State.lean ====
section
/-! DEFINITION. The machine's state as plain data (10_state.md), the reasons a step can stop, and the state after
reset (R50). `ch_count` (R31) is the length of `ch`: records from `ch_count` on do not exist (R32). -/

namespace Sys2Proof.Machine

/-- `rx_state` (R21). -/
inductive RxState where
  | idle | receiving | done
  deriving DecidableEq, Repr

/-- The mode of a pin in `set_mode(pin, Input|Output)` (R40). -/
inductive PinMode where
  | input | output
  deriving DecidableEq, Repr

/-- A Servo Channel record (R32). -/
structure Channel where
  pin : PinId
  level : Bool
  pulseTime : BitVec 16
  lastTransition : U32
  deriving DecidableEq, Repr

/-- The output events (R42, R99). -/
inductive Event where
  | command (c : Command)
  | diagOverflow
  | gpioWrite (pin : PinId) (level : Bool)
  | gpioMode (pin : PinId) (mode : PinMode)
  deriving DecidableEq, Repr

/-- What an operation or a function returned (R13, R97): for a host operation the content of `op_status` and
`op_index_out`, for a symbol, frame, payload, command or function row its value. -/
inductive Result where
  /-- an operation that returns nothing -/
  | nothing
  | ok
  /-- `Ok(index)` -/
  | okIndex (index : Nat)
  | invalidCapacity
  | capacityExceeded
  | word (x : U32)
  | truth (b : Bool)
  /-- a command, `none` being `Unknown` -/
  | command (c : Option Command)
  deriving DecidableEq, Repr

/-- The timing-buffer space (R60) in one canonical form: the written slots by strictly rising index. A slot that
is not listed holds no value (R22, D28). -/
abbrev Memory := List (Nat × U32)

/-- The state. The first eleven fields are the spec's (R20 to R32, R36); the last five are the environment's side of
the interface: its handler (R52), its pending inputs (R40, R41), the last result, the results returned to it and the event
trace it observes (R42). -/
structure State where
  /-- configuration registers (R36); no operation writes them -/
  cfg : Config
  /-- `clock` (R20) -/
  clock : U32
  /-- `rx_state` (R21) -/
  rxState : RxState
  /-- `buf` (R22) -/
  buf : Memory
  /-- `buf_idx` (R23) -/
  bufIdx : Nat
  /-- `prev_level` (R25) -/
  prevLevel : Bool
  /-- `edge_ref` (R26) -/
  edgeRef : U32
  /-- `last_cmd` (R27): `last_cmd_valid` and `last_cmd_byte`; `none` is `Unknown` -/
  lastCmd : Option Command
  /-- `handler_set` (R28) -/
  handlerSet : Bool
  /-- `ch_capacity` (R30) -/
  chCapacity : Nat
  /-- `ch[0 .. ch_count − 1]` (R31, R32) -/
  ch : List Channel
  /-- the registered handler's behaviour, the environment's (R28, R52) -/
  handler : Handler
  /-- what the environment presents next, the first the next step's -/
  inbox : List Stimulus
  /-- what the last operation or function returned -/
  result : Result
  /-- the results returned by host operations so far, oldest first, each with the `clock` value it was returned at; the
  calls of a handler included (R42, R97) -/
  returns : List (U32 × Result)
  /-- the output events so far, oldest first, each with the `clock` value it was emitted at (R42) -/
  trace : List (U32 × Event)
  deriving DecidableEq, Repr

/-- No step faults: nothing traps and nothing is fatal (R190). -/
inductive Fault where
  deriving DecidableEq, Repr

/-- The behaviours the spec gives no meaning and says a model refuses. Each is safe: the model stops where the
hardware does something the spec does not say. -/
inductive Refusal where
  /-- An instruction without a meaning, raised by `exec` alone. Safe. -/
  | notModelled (mnemonic : String)
  /-- A second successful `configure` (U2), raised by `configure`. Safe. -/
  | secondConfigure
  /-- `add` of a pin that a channel already has (U6, D29), raised by `add`, also inside the handler. Safe. -/
  | pinInUse
  /-- `add` of `IR_PIN` (U6, D29), raised by `add`, also inside the handler. Safe. -/
  | pinIsIrPin
  /-- A handler that calls what R129 forbids (U7, D13), raised in the handler window. Safe. -/
  | handlerReentry (call : ForbiddenCall)
  /-- Configuration values outside the legal ranges (U8, D25), raised by `step`. Safe. -/
  | illegalConfig
  deriving DecidableEq, Repr

/-- The state right after reset (R50, R220). The configuration is this hardware's; `edge_ref` is log entry 1; the
environment's fields are log entry 5. -/
def State.reset : State :=
  { cfg := defaultConfig
    clock := clockReset
    rxState := .idle
    buf := []
    bufIdx := 0
    prevLevel := prevLevelReset
    edgeRef := edgeRefReset
    lastCmd := none
    handlerSet := false
    chCapacity := 0
    ch := []
    handler := []
    inbox := []
    result := .nothing
    returns := []
    trace := [] }

end Sys2Proof.Machine
end

