-- ==== Sys2Proof/Machine/Ops.lean ====
section
/-! DEFINITION. The named operations over the state that the meanings share: the timing buffer, the output events, the
clock, the host operations, the handler's entry, window and return (the nearest thing to an exception: R203, R204),
the arms of the two updates, and fetching the next stimulus. -/

namespace Sys2Proof.Machine

/-- What an operation answers. -/
abbrev Answer := Host.Outcome State Fault Refusal

/-- Run `f` on the state an operation goes on with; a refusal stands. -/
def andThen (o : Answer) (f : State → Answer) : Answer :=
  match o with
  | .next s => f s
  | .fault r => .fault r
  | .refused r => .refused r

/-! ### The timing buffer (R60) -/

/-- Slot `k`; `none` where nothing has written it (R22). -/
def Memory.read : Memory → Nat → Option U32
  | [], _ => none
  | (j, v) :: m, k => if j = k then some v else Memory.read m k

/-- Write slot `k`, keeping the listed slots in strictly rising order. -/
def Memory.write : Memory → Nat → U32 → Memory
  | [], k, v => [(k, v)]
  | (j, w) :: m, k, v =>
    if k < j then (k, v) :: (j, w) :: m
    else if k = j then (k, v) :: m
    else (j, w) :: Memory.write m k v

/-- The canonical form: slot indices strictly rise. No listed slot equals what an unlisted one reads as, since an
unlisted slot reads as no value. -/
abbrev Memory.wf (m : Memory) : Prop := List.Pairwise (fun a b => a.1 < b.1) m

/-- What reading slot `k` gives the decode function: its value, a free value where nothing has written it (U4). -/
def State.slot (s : State) (k : Nat) : U32 := (s.buf.read k).getD (Config.unwrittenSlot k)

/-- `buf[0 .. buf_idx − 1]`, the entries of the current frame (R23). -/
def State.entries (s : State) : List U32 := (List.range s.bufIdx).map s.slot

/-! ### Views of the state -/

/-- `ch_count` (R31). -/
def State.chCount (s : State) : Nat := s.ch.length

/-- The level of the last `GpioWrite` to `pin` in a trace, `none` before the first (R42). -/
def lastWrite (pin : PinId) : List (U32 × Event) → Option Bool
  | [] => none
  | (_, .gpioWrite p l) :: rest =>
    match lastWrite pin rest with
    | some x => some x
    | none => if p = pin then some l else none
  | (_, .command _) :: rest => lastWrite pin rest
  | (_, .diagOverflow) :: rest => lastWrite pin rest
  | (_, .gpioMode _ _) :: rest => lastWrite pin rest

/-- The level present on an output pin (R42): that of the last `GpioWrite`, unknown before the first. -/
def State.pinLevel (s : State) (pin : PinId) : Option Bool := lastWrite pin s.trace

/-- Port code of `rx_state` (R21, D21). -/
def rxCode : RxState → BitVec 2
  | .idle => 0#2
  | .receiving => 1#2
  | .done => 2#2

/-- Port `op_status` (R41, R98). DESIGN CHOICE (log entry 26): the spec gives it for `configure` and `add` only; after a
call that returns nothing and after an evaluated row it shows 0; a tick whose handler makes no call and `op_code` 5 to 7
leave what it showed. -/
def opStatus : Result → BitVec 2
  | .invalidCapacity => 1#2
  | .capacityExceeded => 2#2
  | .nothing | .ok | .okIndex _ | .word _ | .truth _ | .command _ => 0#2

/-- Port `op_index_out` (R41): the index `add` returned. DESIGN CHOICE (log entry 26): the spec gives it no
other value; after any other operation that writes a result it shows 0; a tick whose handler makes no call and `op_code`
5 to 7 leave what it showed. -/
def opIndexOut : Result → BitVec 16
  | .okIndex k => BitVec.ofNat 16 k
  | .nothing | .ok | .invalidCapacity | .capacityExceeded | .word _ | .truth _ | .command _ => 0#16

/-! ### Events, results, clock -/

/-- `emit E`: append an output event, stamped with the clock (R13, R42). -/
def State.emit (s : State) (e : Event) : State := { s with trace := s.trace ++ [(s.clock, e)] }

/-- `return v` (R13). -/
def State.setResult (s : State) (r : Result) : State := { s with result := r }

/-- `return v` of a host operation: its result is observed as well (R42, R97). -/
def State.returnResult (s : State) (r : Result) : State :=
  { s with result := r, returns := s.returns ++ [(s.clock, r)] }

/-- The clock advance of `fires` fires of the tick source (R111; `fires` is 1 in the normative step, R118). -/
def State.advanceClock (s : State) (fires : Nat) : State :=
  { s with clock := s.clock + BitVec.ofNat 32 (fires * s.cfg.tickUs) }

/-! ### Host operations (R170 to R172) -/

/-- `configure(capacity)` (R170). A second successful call has no meaning (U2). -/
def configureOp (capacity : Nat) (s : State) : Answer :=
  if capacity = 0 then .next (s.returnResult .invalidCapacity)
  else if s.chCapacity ≠ 0 then .refused .secondConfigure
  else .next (({ s with chCapacity := capacity, ch := [] } : State).returnResult .ok)

/-- A new channel: pulse time neutral, level low, last transition at the current clock (R171, D15). -/
def newChannel (pin : PinId) (clock : U32) : Channel :=
  { pin := pin, level := false, pulseTime := BitVec.ofNat 16 neutralPulseUs, lastTransition := clock }

/-- The successful part of `add(pin)` (R171). -/
def registerChannel (pin : PinId) (s : State) : State :=
  let s1 := (s.emit (.gpioMode pin .output)).emit (.gpioWrite pin false)
  ({ s1 with ch := s1.ch ++ [newChannel pin s1.clock] }).returnResult (.okIndex s.ch.length)

/-- `add(pin)` (R171): the capacity test, then the pins the spec gives no meaning (U6), then the new channel. -/
def addOp (pin : PinId) (s : State) : Answer :=
  if s.chCapacity ≤ s.ch.length then .next (s.returnResult .capacityExceeded)
  else if pin = s.cfg.irPin then .refused .pinIsIrPin
  else if s.ch.any (fun c => c.pin == pin) then .refused .pinInUse
  else .next (registerChannel pin s)

/-- Write the pulse time of record `k`. -/
def setPulse (chs : List Channel) (k : Nat) (p : BitVec 16) : List Channel :=
  chs.modify k (fun c => { c with pulseTime := p })

/-- `set_target(index, value)` (R172): a silent no-op outside `[0, ch_count)`; returns nothing. -/
def setTargetOp (index value : Int) (s : State) : State :=
  if index < 0 ∨ (s.ch.length : Int) ≤ index then s.setResult .nothing
  else ({ s with ch := setPulse s.ch index.toNat (pulseOf value) }).setResult .nothing

/-! ### The handler: entry, window, return (R127 to R129, R203, R204) -/

/-- `on_receive(handler)` (R128): last-wins (U1). -/
def registerHandler (h : Handler) (s : State) : State :=
  ({ s with handlerSet := true, handler := h }).setResult .nothing

/-- The calls a handler makes for command `c`: its first row for `c`, none without one (R52). -/
def handlerCalls : Handler → Command → List HandlerOp
  | [], _ => []
  | (k, ops) :: rest, c => if k = c then ops else handlerCalls rest c

/-- One call of the handler, atomic (R129). -/
def runCall (op : HandlerOp) (s : State) : Answer :=
  match op with
  | .setTarget index value => .next (setTargetOp index value s)
  | .add pin => addOp pin s
  | .forbidden call => .refused (.handlerReentry call)

/-- The handler's calls in the order it issues them (R202). -/
def runCalls : List HandlerOp → State → Answer
  | [], s => .next s
  | op :: ops, s => andThen (runCall op s) (runCalls ops)

/-- `HandlerWindow(c)` (R129). -/
def handlerWindow (c : Command) (s : State) : Answer := runCalls (handlerCalls s.handler c) s

/-- Entry (R127, R203): the cache is written, `Command(c)` is emitted, `rx_state` still reads `Done`. -/
def announceCommand (c : Command) (s : State) : State := ({ s with lastCmd := some c }).emit (.command c)

/-- Return (R127, R204): the decoder goes to `Idle`; nothing else is restored. -/
def leaveDone (s : State) : State := { s with rxState := .idle }

/-! ### The decoder's arms (R121 to R127) -/

/-- `duration = now -% edge_ref` (R122). -/
def State.duration (s : State) (now : U32) : U32 := now - s.edgeRef

/-- The effect of the start of a frame (R121). -/
def startFrame (now : U32) (s : State) : State :=
  { s with bufIdx := 0, edgeRef := now, rxState := .receiving }

/-- `AppendEdge` (R123). -/
def appendEdge (now : U32) (s : State) : State :=
  { s with buf := s.buf.write s.bufIdx (s.duration now), bufIdx := s.bufIdx + 1, edgeRef := now }

/-- `Overflow` (R124). -/
def overflowDone (s : State) : State := { s.emit .diagOverflow with rxState := .done }

/-- `FrameEnd` (R125). -/
def frameEnd (s : State) : State := { s with rxState := .done }

/-- `NoiseAbort` (R126). -/
def noiseAbort (s : State) : State := { s with rxState := .idle }

/-- The frame-end test: held high, raw duration strictly above the gap (R122, R125). -/
def State.gapExceeded (s : State) (now : U32) : Bool := decide (frameGapUs < (s.duration now).toNat)

/-- The noise test: raw duration strictly above `MARK_ABORT_US` (R122, R126). -/
def State.markExceeded (s : State) (now : U32) : Bool := decide (markAbortUs s.cfg < (s.duration now).toNat)

/-- `IdleArm` (R121). -/
def idleArm (now : U32) (level : Bool) (s : State) : State :=
  if s.prevLevel = true ∧ level = false then startFrame now s else s

/-- `ReceivingArm` (R122): an edge has priority over both termination tests. -/
def receivingArm (now : U32) (level : Bool) (s : State) : State :=
  if level ≠ s.prevLevel then
    if s.bufIdx < s.cfg.bufCapacity then appendEdge now s else overflowDone s
  else if level = true ∧ s.gapExceeded now = true then frameEnd s
  else if level = false ∧ s.markExceeded now = true then noiseAbort s
  else s

/-- `DoneArm` (R127). -/
def doneArm (s : State) : Answer :=
  match decodeNec s.cfg s.entries s.lastCmd with
  | none => .next (leaveDone s)
  | some c =>
    let s1 := announceCommand c s
    andThen (if s1.handlerSet then handlerWindow c s1 else .next s1) (fun t => .next (leaveDone t))

/-- `prev_level <- level` (R120). -/
def State.sample (s : State) (level : Bool) : State := { s with prevLevel := level }

/-- `DecoderUpdate(now, level)` (R120): the arm of the state held at the start, then the sample. -/
def decoderUpdate (now : U32) (level : Bool) (s : State) : Answer :=
  match s.rxState with
  | .idle => .next ((idleArm now level s).sample level)
  | .receiving => .next ((receivingArm now level s).sample level)
  | .done => andThen (doneArm s) (fun t => .next (t.sample level))

/-! ### The scheduler's arms (R173 to R175) -/

/-- `elapsed = now -% last_transition` (R175). -/
def Channel.elapsed (c : Channel) (now : U32) : Nat := (now - c.lastTransition).toNat

/-- The guard of `FallArm` (R173). -/
def Channel.fallDue (c : Channel) (now : U32) : Bool := c.level && decide (c.pulseTime.toNat < c.elapsed now)

/-- The guard of `RiseArm` (R174): `elapsed > PWM_PERIOD_US − pulse_time` over the integers. -/
def Channel.riseDue (c : Channel) (now : U32) : Bool :=
  !c.level && decide (pwmPeriodUs < c.elapsed now + c.pulseTime.toNat)

/-- A level transition of a record: the level and the time of it (R173, R174). -/
def Channel.toggled (c : Channel) (now : U32) (level : Bool) : Channel :=
  { c with level := level, lastTransition := now }

/-- Drive channel `k`, whose record is `c`, to `level` at `now` (the bodies of R173 and R174). -/
def driveChannel (k : Nat) (c : Channel) (level : Bool) (now : U32) (s : State) : State :=
  let s1 := s.emit (.gpioWrite c.pin level)
  { s1 with ch := s1.ch.set k (c.toggled now level) }

/-- `FallArm(k, now)` with its guard (R173). -/
def fallArm (k : Nat) (now : U32) (s : State) : State :=
  match s.ch[k]? with
  | none => s
  | some c => if c.fallDue now then driveChannel k c false now s else s

/-- `RiseArm(k, now)` with its guard (R174). -/
def riseArm (k : Nat) (now : U32) (s : State) : State :=
  match s.ch[k]? with
  | none => s
  | some c => if c.riseDue now then driveChannel k c true now s else s

/-- One channel's turn in the update: both guards test the level before it, so it makes at most one transition
(R175). -/
def channelTurn (k : Nat) (now : U32) (s : State) : State :=
  match s.ch[k]? with
  | none => s
  | some c => if c.fallDue now then fallArm k now s else if c.riseDue now then riseArm k now s else s

/-- Turns `k, k + 1, …` of `n` channels in ascending order (R175, D19). -/
def channelTurns : Nat → Nat → U32 → State → State
  | 0, _, _, s => s
  | n + 1, k, now, s => channelTurns n (k + 1) now (channelTurn k now s)

/-- `SchedulerUpdate(now)` (R175): every registered channel. -/
def schedulerUpdate (now : U32) (s : State) : State := channelTurns s.ch.length 0 now s

/-! ### The pass (R110) -/

/-- `TICK`: the clock advances, the decoder updates, the scheduler updates; `now` is read once (R112). -/
def tickPass (irIn : Bool) (missed : Nat) (s : State) : Answer :=
  let s1 := s.advanceClock (missed + 1)
  andThen (decoderUpdate s1.clock irIn s1) (fun t => .next (schedulerUpdate s1.clock t))

/-! ### Fetching the next stimulus -/

/-- The next stimulus decoded, with the state that has taken it; `none` while the environment presents nothing. -/
def nextStimulus (s : State) : Option (Decoded × State) :=
  match s.inbox with
  | [] => none
  | st :: rest => some (decode s.cfg st, { s with inbox := rest })

/-- Port `rst` (R41, R220): every state element to its reset value, the configuration registers at their configured
values; no event. What the environment holds (pending inputs, the results and the trace observed) is no state of the block. -/
def takeReset (s : State) : State := { State.reset with cfg := s.cfg, inbox := s.inbox, returns := s.returns, trace := s.trace }

/-- A stimulus that stands for no row: a reserved `op_code` is no operation (U11); an entry or a list of entries that
is no symbol and no frame yields `Unknown` (R100, R145). -/
def takeReject (why : Reject) (s : State) : State :=
  match why with
  | .noOperation => s
  | .noSymbol => s.setResult (.command none)
  | .noFrame => s.setResult (.command none)

/-- Put a stimulus where the next step takes its own. -/
def placeStimulus (s : State) (st : Stimulus) : State := { s with inbox := st :: s.inbox }

end Sys2Proof.Machine
end

