-- ==== Sys2Proof/Machine/Arms.lean ====
section
/-! DEFINITION. The meanings of the ARM rows: the arm's effect where its guard holds, nothing where it does not. The sample
`prev_level <- level` is the update's, not the arm's (R120). -/

namespace Sys2Proof.Machine

/-- `DEC_IDLE_START` (R121). -/
def execDecIdleStart (now : U32) (level : Bool) (s : State) : Answer :=
  .next (if s.rxState = .idle ∧ s.prevLevel = true ∧ level = false then startFrame now s else s)

/-- `DEC_RX_APPEND` (R123). -/
def execDecRxAppend (now : U32) (level : Bool) (s : State) : Answer :=
  .next (if s.rxState = .receiving ∧ level ≠ s.prevLevel ∧ s.bufIdx < s.cfg.bufCapacity then appendEdge now s else s)

/-- `DEC_RX_OVERFLOW` (R124). -/
def execDecRxOverflow (level : Bool) (s : State) : Answer :=
  .next (if s.rxState = .receiving ∧ level ≠ s.prevLevel ∧ s.bufIdx = s.cfg.bufCapacity then overflowDone s else s)

/-- `DEC_RX_FRAME_END` (R125). -/
def execDecRxFrameEnd (now : U32) (level : Bool) (s : State) : Answer :=
  .next (if s.rxState = .receiving ∧ level = s.prevLevel ∧ level = true ∧ s.gapExceeded now = true then frameEnd s
    else s)

/-- `DEC_RX_NOISE_ABORT` (R126). -/
def execDecRxNoiseAbort (now : U32) (level : Bool) (s : State) : Answer :=
  .next (if s.rxState = .receiving ∧ level = s.prevLevel ∧ level = false ∧ s.markExceeded now = true then noiseAbort s
    else s)

/-- `DEC_DONE` (R127). -/
def execDecDone (s : State) : Answer := if s.rxState = .done then doneArm s else .next s

/-- `DEC_HANDLER_WINDOW` (R129): `c` is known, so the guard is `Done` and a registered handler. -/
def execDecHandlerWindow (c : Command) (s : State) : Answer :=
  if s.rxState = .done ∧ s.handlerSet = true then handlerWindow c s else .next s

/-- `PWM_FALL` (R173). -/
def execPwmFall (index : Nat) (now : U32) (s : State) : Answer := .next (fallArm index now s)

/-- `PWM_RISE` (R174). -/
def execPwmRise (index : Nat) (now : U32) (s : State) : Answer := .next (riseArm index now s)

end Sys2Proof.Machine
end

