-- ==== Sys2Proof/Machine/Commands.lean ====
section
/-! DEFINITION. The meanings of the CMD rows: a payload whose high half is that of the command goes through the checksum
(R89, R157) and the command table (R92, R158). Which of the rows but `Up` the table recognizes is the configuration's
(R92, R93, U10): an unrecognized byte yields `Unknown`. -/

namespace Sys2Proof.Machine

/-- Steps 7 and 8 on the payload `b0, b1, b2, b3` (R157, R158). -/
def lookUpPayload (b0 b1 b2 b3 : Byte) (s : State) : Answer :=
  .next (s.setResult (.command (decodePayload s.cfg (payloadOfBytes b0 b1 b2 b3))))

/-- `CMD_UP` (R92): command byte 0x18. -/
def execCmdUp (b0 b1 : Byte) (s : State) : Answer := lookUpPayload b0 b1 0x18#8 0xE7#8 s

/-- `CMD_DOWN` (R93): command byte 0x52. -/
def execCmdDown (b0 b1 : Byte) (s : State) : Answer := lookUpPayload b0 b1 0x52#8 0xAD#8 s

/-- `CMD_LEFT` (R93): command byte 0x08. -/
def execCmdLeft (b0 b1 : Byte) (s : State) : Answer := lookUpPayload b0 b1 0x08#8 0xF7#8 s

/-- `CMD_RIGHT` (R93): command byte 0x5A. -/
def execCmdRight (b0 b1 : Byte) (s : State) : Answer := lookUpPayload b0 b1 0x5A#8 0xA5#8 s

/-- `CMD_OK` (R93): command byte 0x1C. -/
def execCmdOk (b0 b1 : Byte) (s : State) : Answer := lookUpPayload b0 b1 0x1C#8 0xE3#8 s

/-- `CMD_DIGIT1` (R93): command byte 0x45. -/
def execCmdDigit1 (b0 b1 : Byte) (s : State) : Answer := lookUpPayload b0 b1 0x45#8 0xBA#8 s

/-- `CMD_DIGIT2` (R93): command byte 0x46. -/
def execCmdDigit2 (b0 b1 : Byte) (s : State) : Answer := lookUpPayload b0 b1 0x46#8 0xB9#8 s

/-- `CMD_DIGIT3` (R93): command byte 0x47. -/
def execCmdDigit3 (b0 b1 : Byte) (s : State) : Answer := lookUpPayload b0 b1 0x47#8 0xB8#8 s

/-- `CMD_DIGIT4` (R93): command byte 0x44. -/
def execCmdDigit4 (b0 b1 : Byte) (s : State) : Answer := lookUpPayload b0 b1 0x44#8 0xBB#8 s

/-- `CMD_DIGIT5` (R93): command byte 0x40. -/
def execCmdDigit5 (b0 b1 : Byte) (s : State) : Answer := lookUpPayload b0 b1 0x40#8 0xBF#8 s

/-- `CMD_DIGIT6` (R93): command byte 0x43. -/
def execCmdDigit6 (b0 b1 : Byte) (s : State) : Answer := lookUpPayload b0 b1 0x43#8 0xBC#8 s

/-- `CMD_DIGIT7` (R93): command byte 0x07. -/
def execCmdDigit7 (b0 b1 : Byte) (s : State) : Answer := lookUpPayload b0 b1 0x07#8 0xF8#8 s

/-- `CMD_DIGIT8` (R93): command byte 0x15. -/
def execCmdDigit8 (b0 b1 : Byte) (s : State) : Answer := lookUpPayload b0 b1 0x15#8 0xEA#8 s

/-- `CMD_DIGIT9` (R93): command byte 0x09. -/
def execCmdDigit9 (b0 b1 : Byte) (s : State) : Answer := lookUpPayload b0 b1 0x09#8 0xF6#8 s

/-- `CMD_DIGIT0` (R93): command byte 0x19. -/
def execCmdDigit0 (b0 b1 : Byte) (s : State) : Answer := lookUpPayload b0 b1 0x19#8 0xE6#8 s

/-- `CMD_STAR` (R93): command byte 0x16. -/
def execCmdStar (b0 b1 : Byte) (s : State) : Answer := lookUpPayload b0 b1 0x16#8 0xE9#8 s

/-- `CMD_POUND` (R93): command byte 0x0D. -/
def execCmdPound (b0 b1 : Byte) (s : State) : Answer := lookUpPayload b0 b1 0x0D#8 0xF2#8 s

end Sys2Proof.Machine
end

