-- ==== Sys2Proof/Machine/Frames.lean ====
section
/-! DEFINITION. The meanings of the FRAME and PAYLOAD rows: what Decode (R159) makes of a frame of that format. They return
a command or `Unknown` and write no state of the block (R150). -/

namespace Sys2Proof.Machine

/-- `DATA_FRAME` (R83, R85, R156 to R158): the payload of the 66 entries through the checksum and the command table;
`Unknown` where the entries are no data frame (R100). DESIGN CHOICE (log entry 28): lists longer than `BUF_CAPACITY` too. -/
def execDataFrame (entries : List U32) (s : State) : Answer :=
  .next (s.setResult (.command (decodeDataFrame s.cfg entries)))

/-- `REPEAT_FRAME` (R84, R153): the cached last command, which may be `Unknown`; `Unknown` where the entries are no
repeat frame. DESIGN CHOICE (log entry 28): also where `BUF_CAPACITY` is below 3. -/
def execRepeatFrame (entries : List U32) (s : State) : Answer :=
  .next (s.setResult (.command (if isRepeatFrame s.cfg entries then s.lastCmd else none)))

/-- `NEC_PAYLOAD` (R88, R89, R157, R158). -/
def execNecPayload (v : BitVec 32) (s : State) : Answer :=
  .next (s.setResult (.command (decodePayload s.cfg v)))

end Sys2Proof.Machine
end

