-- ==== Sys2Proof/Machine/Functions.lean ====
section
/-! DEFINITION. The meanings of the FN rows: the two updates and the dispatch change the state as their rules say, the pure
functions return their value. -/

namespace Sys2Proof.Machine

/-- `DECODER_UPDATE` (R120). -/
def execDecoderUpdate (now : U32) (level : Bool) (s : State) : Answer := decoderUpdate now level s

/-- `RECEIVING_DISPATCH` (R122). -/
def execReceivingDispatch (now : U32) (level : Bool) (s : State) : Answer := .next (receivingArm now level s)

/-- `SCHEDULER_UPDATE` (R175). -/
def execSchedulerUpdate (now : U32) (s : State) : Answer := .next (schedulerUpdate now s)

/-- `COMP_MARK` (R140). -/
def execCompMark (d : U32) (s : State) : Answer := .next (s.setResult (.word (compMark s.cfg d)))

/-- `COMP_SPACE` (R141). -/
def execCompSpace (d : U32) (s : State) : Answer := .next (s.setResult (.word (compSpace s.cfg d)))

/-- `IN_WINDOW` (R142). -/
def execInWindow (c e : Nat) (s : State) : Answer := .next (s.setResult (.truth (inWindow s.cfg c e)))

/-- `MATCHES_MARK` (R143). -/
def execMatchesMark (d : U32) (e : Nat) (s : State) : Answer := .next (s.setResult (.truth (matchesMark s.cfg d e)))

/-- `MATCHES_SPACE` (R144). -/
def execMatchesSpace (d : U32) (e : Nat) (s : State) : Answer := .next (s.setResult (.truth (matchesSpace s.cfg d e)))

/-- `DECODE` (R159): `Decode(buf, n, last)` with `entries` for `buf[0 .. n − 1]`. DESIGN CHOICE (log entry 28):
R150 bounds `n` by `BUF_CAPACITY`; a longer list is decoded by the same steps. -/
def execNecDecode (entries : List U32) (last : Option Command) (s : State) : Answer :=
  .next (s.setResult (.command (decodeNec s.cfg entries last)))

end Sys2Proof.Machine
end

