-- ==== Sys2Proof/Machine/HostOps.lean ====
section
/-! DEFINITION. The meanings of the host operations (R128, R170 to R172) and of the tick (R110). -/

namespace Sys2Proof.Machine

/-- `TICK` (R110, R118). -/
def execTick (irIn : Bool) (missed : Nat) (s : State) : Answer := tickPass irIn missed s

/-- `CONFIGURE` (R170). -/
def execConfigure (capacity : Nat) (s : State) : Answer := configureOp capacity s

/-- `ADD` (R171). -/
def execAdd (pin : PinId) (s : State) : Answer := addOp pin s

/-- `SET_TARGET` (R172). -/
def execSetTarget (index value : Int) (s : State) : Answer := .next (setTargetOp index value s)

/-- `ON_RECEIVE` (R128). -/
def execOnReceive (handler : Handler) (s : State) : Answer := .next (registerHandler handler s)

end Sys2Proof.Machine
end

