-- ==== Sys2Proof/Machine/Symbols.lean ====
section
/-! DEFINITION. The meanings of the SYM rows (R81, R143, R144): an entry IS a symbol when it matches it. A failed match is a
result, not a trap (R145, R190). -/

namespace Sys2Proof.Machine

/-- `HDR_MARK` (R143): returns whether the entry `d` is this symbol. -/
def execHdrMark (d : U32) (s : State) : Answer := .next (s.setResult (.truth (matchesMark s.cfg d hdrMarkUs)))

/-- `HDR_SPACE` (R144): returns whether the entry `d` is this symbol. -/
def execHdrSpace (d : U32) (s : State) : Answer := .next (s.setResult (.truth (matchesSpace s.cfg d hdrSpaceUs)))

/-- `RPT_SPACE` (R144): returns whether the entry `d` is this symbol. -/
def execRptSpace (d : U32) (s : State) : Answer := .next (s.setResult (.truth (matchesSpace s.cfg d rptSpaceUs)))

/-- `BIT_MARK` (R143): returns whether the entry `d` is this symbol. -/
def execBitMark (d : U32) (s : State) : Answer := .next (s.setResult (.truth (matchesMark s.cfg d bitMarkUs)))

/-- `ONE_SPACE` (R144): returns whether the entry `d` is this symbol. -/
def execOneSpace (d : U32) (s : State) : Answer := .next (s.setResult (.truth (matchesSpace s.cfg d oneSpaceUs)))

/-- `ZERO_SPACE` (R144): returns whether the entry `d` is this symbol. -/
def execZeroSpace (d : U32) (s : State) : Answer := .next (s.setResult (.truth (matchesSpace s.cfg d zeroSpaceUs)))

end Sys2Proof.Machine
end

