-- ==== Sys2Proof/Machine/Dispatch.lean ====
section
/-! DEFINITION. The dispatch: one arm per constructor of `Instr`, each one call of its meaning. -/

namespace Sys2Proof.Machine

def exec (i : Instr) (s : State) : Host.Outcome State Fault Refusal :=
  match i with
  | .hdrMark d => Sys2Proof.Machine.execHdrMark d s
  | .hdrSpace d => Sys2Proof.Machine.execHdrSpace d s
  | .rptSpace d => Sys2Proof.Machine.execRptSpace d s
  | .bitMark d => Sys2Proof.Machine.execBitMark d s
  | .oneSpace d => Sys2Proof.Machine.execOneSpace d s
  | .zeroSpace d => Sys2Proof.Machine.execZeroSpace d s
  | .dataFrame entries => Sys2Proof.Machine.execDataFrame entries s
  | .repeatFrame entries => Sys2Proof.Machine.execRepeatFrame entries s
  | .necPayload v => Sys2Proof.Machine.execNecPayload v s
  | .cmdUp b0 b1 => Sys2Proof.Machine.execCmdUp b0 b1 s
  | .cmdDown b0 b1 => Sys2Proof.Machine.execCmdDown b0 b1 s
  | .cmdLeft b0 b1 => Sys2Proof.Machine.execCmdLeft b0 b1 s
  | .cmdRight b0 b1 => Sys2Proof.Machine.execCmdRight b0 b1 s
  | .cmdOk b0 b1 => Sys2Proof.Machine.execCmdOk b0 b1 s
  | .cmdDigit1 b0 b1 => Sys2Proof.Machine.execCmdDigit1 b0 b1 s
  | .cmdDigit2 b0 b1 => Sys2Proof.Machine.execCmdDigit2 b0 b1 s
  | .cmdDigit3 b0 b1 => Sys2Proof.Machine.execCmdDigit3 b0 b1 s
  | .cmdDigit4 b0 b1 => Sys2Proof.Machine.execCmdDigit4 b0 b1 s
  | .cmdDigit5 b0 b1 => Sys2Proof.Machine.execCmdDigit5 b0 b1 s
  | .cmdDigit6 b0 b1 => Sys2Proof.Machine.execCmdDigit6 b0 b1 s
  | .cmdDigit7 b0 b1 => Sys2Proof.Machine.execCmdDigit7 b0 b1 s
  | .cmdDigit8 b0 b1 => Sys2Proof.Machine.execCmdDigit8 b0 b1 s
  | .cmdDigit9 b0 b1 => Sys2Proof.Machine.execCmdDigit9 b0 b1 s
  | .cmdDigit0 b0 b1 => Sys2Proof.Machine.execCmdDigit0 b0 b1 s
  | .cmdStar b0 b1 => Sys2Proof.Machine.execCmdStar b0 b1 s
  | .cmdPound b0 b1 => Sys2Proof.Machine.execCmdPound b0 b1 s
  | .tick irIn missed => Sys2Proof.Machine.execTick irIn missed s
  | .configure capacity => Sys2Proof.Machine.execConfigure capacity s
  | .add pin => Sys2Proof.Machine.execAdd pin s
  | .setTarget index value => Sys2Proof.Machine.execSetTarget index value s
  | .onReceive handler => Sys2Proof.Machine.execOnReceive handler s
  | .decIdleStart now level => Sys2Proof.Machine.execDecIdleStart now level s
  | .decRxAppend now level => Sys2Proof.Machine.execDecRxAppend now level s
  | .decRxOverflow level => Sys2Proof.Machine.execDecRxOverflow level s
  | .decRxFrameEnd now level => Sys2Proof.Machine.execDecRxFrameEnd now level s
  | .decRxNoiseAbort now level => Sys2Proof.Machine.execDecRxNoiseAbort now level s
  | .decDone => Sys2Proof.Machine.execDecDone s
  | .decHandlerWindow c => Sys2Proof.Machine.execDecHandlerWindow c s
  | .pwmFall index now => Sys2Proof.Machine.execPwmFall index now s
  | .pwmRise index now => Sys2Proof.Machine.execPwmRise index now s
  | .decoderUpdate now level => Sys2Proof.Machine.execDecoderUpdate now level s
  | .receivingDispatch now level => Sys2Proof.Machine.execReceivingDispatch now level s
  | .schedulerUpdate now => Sys2Proof.Machine.execSchedulerUpdate now s
  | .compMark d => Sys2Proof.Machine.execCompMark d s
  | .compSpace d => Sys2Proof.Machine.execCompSpace d s
  | .inWindow c e => Sys2Proof.Machine.execInWindow c e s
  | .matchesMark d e => Sys2Proof.Machine.execMatchesMark d e s
  | .matchesSpace d e => Sys2Proof.Machine.execMatchesSpace d e s
  | .necDecode entries last => Sys2Proof.Machine.execNecDecode entries last s

end Sys2Proof.Machine
end

