-- ==== Sys2Proof/Machine/Step.lean ====
section
/-! DEFINITION. One step (R114): the next stimulus of the environment is taken and what it stands for is executed. With
none pending the block waits (R50). A configuration outside the legal ranges has no meaning (U8). -/

namespace Sys2Proof.Machine

def step (s : State) : Host.Outcome State Fault Refusal :=
  if s.cfg.legal then
    match nextStimulus s with
    | none => .next s
    | some (.instr i, t) => exec i t
    | some (.reset, t) => .next (takeReset t)
    | some (.rejected why, t) => .next (takeReject why t)
  else .refused .illegalConfig

/-- `s` with the stimulus of a table word presented next, before whatever was pending. -/
def State.withFetchWord (s : State) (nbits w : Nat) : State := placeStimulus s (tableStimulus nbits w)

end Sys2Proof.Machine
end

