-- ==== Sys2Proof/Safety.lean ====
section
/-! DEFINITION. The terms in which claims speak of runs: the invariant of the machine, the tick grid, runs of ticks, the
waveforms and expansions of 30_encoding.md section 8, and what one scheduler update does to a record. -/

namespace Sys2Proof.Machine

/-! ### The invariant -/

/-- The longest duration that a tick may leave in `Receiving` while the pin is at this level (R125, R126). -/
def phaseLimit (cfg : Config) (level : Bool) : Nat := if level then frameGapUs else markAbortUs cfg

/-- What every state a run reaches satisfies. -/
structure Inv (s : State) : Prop where
  /-- the configuration is legal (R8) -/
  cfgLegal : s.cfg.legal = true
  /-- the timing buffer is in canonical form -/
  bufCanonical : Memory.wf s.buf
  /-- only slots below `BUF_CAPACITY` exist (R60) -/
  bufBounded : ∀ k v, s.buf.read k = some v → k < s.cfg.bufCapacity
  /-- `buf_idx ≤ BUF_CAPACITY` (R24(a)) -/
  bufIdxBounded : s.bufIdx ≤ s.cfg.bufCapacity
  /-- the entries of the current frame are written (R22, R23) -/
  bufWritten : ∀ k, k < s.bufIdx → (s.buf.read k).isSome = true
  /-- `ch_count ≤ ch_capacity` (R31) -/
  chCountBounded : s.ch.length ≤ s.chCapacity
  /-- pulse times are in the safe range (R33(a)) -/
  pulseRange : ∀ c ∈ s.ch, pulseMinUs ≤ c.pulseTime.toNat ∧ c.pulseTime.toNat ≤ pulseMaxUs
  /-- channels have pins of their own (R233) -/
  pinsDistinct : (s.ch.map Channel.pin).Nodup
  /-- and none of them is `IR_PIN` (R233) -/
  pinsNotIr : ∀ c ∈ s.ch, c.pin ≠ s.cfg.irPin
  /-- a record's level is the level its pin was last driven to (R33(c)) -/
  levelsDriven : ∀ c ∈ s.ch, s.pinLevel c.pin = some c.level
  /-- in `Receiving` the pin's phase is a mark exactly when `buf_idx` is even (R24(d)) -/
  phase : s.rxState = .receiving → (s.prevLevel = false ↔ s.bufIdx % 2 = 0)
  /-- in `Receiving` the duration so far is within the limit of its phase (R115) -/
  durationBounded : s.rxState = .receiving → (s.duration s.clock).toNat ≤ phaseLimit s.cfg s.prevLevel
  /-- a cached command is one the table recognizes (R27) -/
  cacheKnown : ∀ c, s.lastCmd = some c → s.cfg.cmdTable.contains c = true

/-- A duration that is a multiple of `TICK_US` (R117). -/
def OnGrid (cfg : Config) (d : U32) : Prop := cfg.tickUs ∣ d.toNat

/-- Every duration the block has recorded or is measuring lies on the tick grid (R117), and no channel's running phase is
longer than the servo frame, so that none can wrap on the way (R115). -/
structure TickGrid (s : State) : Prop where
  recorded : ∀ k v, s.buf.read k = some v → OnGrid s.cfg v
  measuring : s.rxState = .receiving → OnGrid s.cfg (s.duration s.clock)
  transitions : ∀ c ∈ s.ch, OnGrid s.cfg (s.clock - c.lastTransition)
  phasesBounded : ∀ c ∈ s.ch, c.elapsed s.clock ≤ pwmPeriodUs

/-! ### Runs of ticks -/

/-- One normative tick for each level in turn (R105). -/
def runTicks : List Bool → State → Answer
  | [], s => .next s
  | level :: levels, s => andThen (exec (.tick level 0) s) (runTicks levels)

/-- The waveform of phases of these numbers of ticks, the first at `level`, each next at the other level (R105). -/
def waveform (level : Bool) : List Nat → List Bool
  | [] => []
  | n :: ns => List.replicate n level ++ waveform (!level) ns

/-! ### Expansions of a payload (R107) -/

/-- The 32 bits of a payload, least significant first (R87). -/
def payloadBits (v : BitVec 32) : List Bool := (List.range 32).map v.getLsbD

/-- The entries of a data frame from its symbols' durations, the trailing mark last (R107). -/
def expandFrame (hm hs bm one zero : U32) (bits : List Bool) : List U32 :=
  hm :: hs :: (bits.flatMap (fun b => [bm, if b then one else zero]) ++ [bm])

/-- The nominal expansion of `NECRAW` (R107). -/
def nominalFrame (v : BitVec 32) : List U32 := expandFrame 9000#32 4500#32 560#32 1690#32 560#32 (payloadBits v)

/-- The pre-distorted expansion (R107): marks + 100, spaces − 100. -/
def predistortedFrame (v : BitVec 32) : List U32 :=
  expandFrame 9100#32 4400#32 660#32 1590#32 460#32 (payloadBits v)

/-- The payload of `NEC(a, c)` (R107). -/
def necWord (a c : Byte) : BitVec 32 := payloadOfBytes a (~~~a) c (~~~c)

/-! ### One scheduler update, record by record (R173 to R175) -/

/-- The record after the update. -/
def turned (now : U32) (c : Channel) : Channel :=
  if c.level = true ∧ c.pulseTime.toNat < (now - c.lastTransition).toNat then
    { c with level := false, lastTransition := now }
  else if c.level = false ∧ pwmPeriodUs < (now - c.lastTransition).toNat + c.pulseTime.toNat then
    { c with level := true, lastTransition := now }
  else c

/-- The events of the update, in ascending order of the records. -/
def turnEvents (now : U32) : List Channel → List Event
  | [] => []
  | c :: cs =>
    if (turned now c).level = c.level then turnEvents now cs
    else .gpioWrite c.pin (turned now c).level :: turnEvents now cs

/-- A decoded-command notification (R42). -/
def Event.isCommand : Event → Bool
  | .command _ => true
  | .diagOverflow | .gpioWrite _ _ | .gpioMode _ _ => false

/-- A handler whose every call for `c` is a `set_target`. -/
def onlySetsTargets (h : Handler) (c : Command) : Bool :=
  (handlerCalls h c).all fun op =>
    match op with
    | .setTarget _ _ => true
    | .add _ => false
    | .forbidden _ => false

end Sys2Proof.Machine
end

