-- ==== Sys2Proof/Certificates/Slice0/Obligations.lean ====
section
/-! DEFINITION. The statements for the provers. Each docstring names the rule of spec/ it speaks of; where a clause rests on
a decision of the spec or of this model, it says which. -/

open Sys2Proof Sys2Proof.Machine
open Host (Outcome)

/-! ### Reset, stepping, decoding -/

/-- 10_state.md R50, 70_reset_and_hazards.md R220 with the spec's decisions D3 to D6, D12, D16; the configuration is R6's.
`edge_ref` = 0 is the model's choice (log entry 1), `IR_PIN` and `CMD_TABLE` are open (log entries 2, 3): not stated. -/
def Obligations.ResetStateValues : Prop :=
  let r := State.reset
  r.clock = 0#32 ∧ r.rxState = .idle ∧ (∀ k, r.buf.read k = none) ∧ r.bufIdx = 0 ∧ r.prevLevel = true ∧
    r.lastCmd = none ∧ r.handlerSet = false ∧ r.chCapacity = 0 ∧ r.ch = [] ∧ r.trace = [] ∧
    r.cfg.bufCapacity = 256 ∧ r.cfg.tickUs = 50 ∧ r.cfg.tolPct = 25 ∧ r.cfg.compUs = 100

/-- The invariants hold at reset. -/
def Obligations.ResetMeetsBothInvariants : Prop := Inv State.reset ∧ TickGrid State.reset

/-- Every step keeps the invariant of `Inv`: R24, R27, R31, R33, R60, R115, the canonical form of the buffer. -/
def Obligations.StepKeepsInvariant : Prop := ∀ s t : State, Inv s → step s = .next t → Inv t

/-- R117, with R115's ground for it: every recorded or running duration is a multiple of `TICK_US`, and a channel's phase
stays within the servo frame. A pending tick's advance is below `2^31`, so that no duration wraps in it: for the normative
tick (`missed` = 0) that is `TICK_US` below `2^31`; above 0 it is the optional R118 (log entry 10). -/
def Obligations.StepKeepsTickGrid : Prop :=
  ∀ s t : State, Inv s → TickGrid s →
    (∀ r rest, s.inbox = .op r :: rest → r.opCode = 0#3 → (r.missed + 1) * s.cfg.tickUs < 2 ^ 31) →
    step s = .next t → TickGrid t

/-- A step takes the next stimulus and runs what it stands for; with none pending the block waits (R50, R114); `op_code` 5
to 7 is no operation (R98, U11); what is no symbol and no frame is `Unknown` (R100, R145). -/
def Obligations.StepRunsTheDecodedStimulus : Prop :=
  ∀ s : State, s.cfg.legal = true →
    (s.inbox = [] → step s = .next s) ∧
    ∀ st rest, s.inbox = st :: rest →
      (∀ i, decode s.cfg st = .instr i → step s = exec i { s with inbox := rest }) ∧
      (decode s.cfg st = .rejected .noOperation → step s = .next { s with inbox := rest }) ∧
      (decode s.cfg st = .rejected .noSymbol → step s = .next { s with inbox := rest, result := .command none }) ∧
      (decode s.cfg st = .rejected .noFrame → step s = .next { s with inbox := rest, result := .command none })

/-- Port `rst` (R41, R220): every state element at its reset value, the configuration kept, no event and no result. That what
the environment holds is kept is the model's choice (log entry 15). -/
def Obligations.ResetPortResets : Prop :=
  ∀ (s : State) (rest : List Stimulus), s.cfg.legal = true → s.inbox = .rst :: rest →
    ∃ t, step s = .next t ∧ t.cfg = s.cfg ∧ t.clock = 0#32 ∧ t.rxState = .idle ∧ (∀ k, t.buf.read k = none) ∧
      t.bufIdx = 0 ∧ t.prevLevel = true ∧ t.lastCmd = none ∧ t.handlerSet = false ∧ t.chCapacity = 0 ∧ t.ch = [] ∧
      t.inbox = rest ∧ t.trace = s.trace ∧ t.returns = s.returns

/-- U8: a configuration outside the legal ranges is refused, whatever is pending. -/
def Obligations.IllegalConfigurationRefused : Prop :=
  ∀ s : State,
    (s.cfg.bufCapacity = 0 ∨ s.cfg.tickUs = 0 ∨ 100 < s.cfg.tolPct ∨ 2 ^ 32 ≤ s.cfg.compUs ∨ 0x18#8 ∉ s.cfg.cmdTable) →
    step s = .refused .illegalConfig

/-- Words of the table as the spec writes them: `op_code` (R98), the payload of R163, a `CMD` row (R93), a payload of no
`CMD` row, and three entries (R83, R84). -/
def Obligations.SpecWordsDecode : Prop :=
  decodeTableWord 8 0b00000000 = some (.tick false 0) ∧
  decodeTableWord 8 0b00000001 = some (.configure 0) ∧
  decodeTableWord 8 0b00000010 = some (.add 0#8) ∧
  decodeTableWord 8 0b00000011 = some (.setTarget 0 0) ∧
  decodeTableWord 8 0b00000100 = some (.onReceive []) ∧
  decodeTableWord 8 0b00000101 = none ∧
  decodeTableWord 32 0b11100111000110001111111100000000 = some (.cmdUp 0x00#8 0xFF#8) ∧
  decodeTableWord 32 0b10101101010100101111111100000000 = some (.cmdDown 0x00#8 0xFF#8) ∧
  decodeTableWord 32 0b00000000000000001111111100000000 = some (.necPayload 0x0000FF00#32) ∧
  decode defaultConfig (.entry 0 9000#32) = .instr (.hdrMark 9000#32) ∧
  decode defaultConfig (.entry 1 2250#32) = .instr (.rptSpace 2250#32) ∧
  decode defaultConfig (.frame [9000#32, 2250#32, 560#32]) = .instr (.repeatFrame [9000#32, 2250#32, 560#32])

/-- Decoding an encoded well-formed instruction gives it back, under every configuration, for every row that has a
stimulus of its own. -/
def Obligations.DecodeOfEncode : Prop :=
  ∀ (cfg : Config) (i : Instr) (st : Stimulus), wellFormed cfg i = true → encode i = some st → decode cfg st = .instr i

/-- What a stimulus decodes to is well formed: a symbol in its window (R81), a frame of its format (R83, R84), operands that
fit the ports (R41, U9, log entry 23). It is no part of a pass (R114, R206, log entry 8). A payload's every bit survives
(R65, R88), and so does a list of entries. -/
def Obligations.EncodeOfDecode : Prop :=
  ∀ (cfg : Config) (st : Stimulus) (i : Instr), decode cfg st = .instr i →
    wellFormed cfg i = true ∧ i.internal = false ∧
    (∀ v, st = .payload v → encode i = some (.payload v)) ∧ (∀ es, st = .frame es → encode i = some (.frame es))

/-- R114, R206: only an operation or reset reaches the block's state. A payload, an entry or a list of entries is evaluated
and leaves everything but the returned value. -/
def Obligations.EvaluationLeavesTheBlockAlone : Prop :=
  ∀ (s : State) (st : Stimulus) (rest : List Stimulus), s.cfg.legal = true → s.inbox = st :: rest →
    ((∃ v, st = .payload v) ∨ (∃ k d, st = .entry k d) ∨ (∃ es, st = .frame es)) →
    ∃ r, step s = .next { s with inbox := rest, result := r }

/-! ### Symbols, compensation, windows -/

/-- R81's table of measured windows, at the default tolerance and compensation. -/
def Obligations.SymbolWindowsAtDefaults : Prop :=
  ∀ (s : State) (d : U32), s.cfg.tolPct = 25 → s.cfg.compUs = 100 →
    exec (.hdrMark d) s = .next { s with result := .truth (decide (6850 ≤ d.toNat ∧ d.toNat ≤ 11350)) } ∧
    exec (.hdrSpace d) s = .next { s with result := .truth (decide (3275 ≤ d.toNat ∧ d.toNat ≤ 5525)) } ∧
    exec (.rptSpace d) s = .next { s with result := .truth (decide (1588 ≤ d.toNat ∧ d.toNat ≤ 2712)) } ∧
    exec (.bitMark d) s = .next { s with result := .truth (decide (520 ≤ d.toNat ∧ d.toNat ≤ 800)) } ∧
    exec (.oneSpace d) s = .next { s with result := .truth (decide (1168 ≤ d.toNat ∧ d.toNat ≤ 2012)) } ∧
    exec (.zeroSpace d) s = .next { s with result := .truth (decide (320 ≤ d.toNat ∧ d.toNat ≤ 600)) }

/-- R143, R144: each symbol row is the match against its reference duration of R7, and each match is the window test of R142
on the compensated value (R140, R141), for every configuration, duration and reference. -/
def Obligations.SymbolRowsMatchTheirReference : Prop :=
  ∀ (s : State) (d : U32),
    exec (.hdrMark d) s = exec (.matchesMark d 9000) s ∧ exec (.hdrSpace d) s = exec (.matchesSpace d 4500) s ∧
    exec (.rptSpace d) s = exec (.matchesSpace d 2250) s ∧ exec (.bitMark d) s = exec (.matchesMark d 560) s ∧
    exec (.oneSpace d) s = exec (.matchesSpace d 1690) s ∧ exec (.zeroSpace d) s = exec (.matchesSpace d 560) s ∧
    ∀ e : Nat,
      let inside := fun c : Int =>
        decide ((100 - (s.cfg.tolPct : Int)) * e ≤ 100 * c ∧ 100 * c ≤ (100 + (s.cfg.tolPct : Int)) * e)
      exec (.matchesMark d e) s =
        .next { s with result := .truth (inside (max 0 ((d.toNat : Int) - s.cfg.compUs))) } ∧
      exec (.matchesSpace d e) s =
        .next { s with result := .truth (inside (min ((d.toNat : Int) + s.cfg.compUs) (2 ^ 32 - 1))) }

/-- R146: each match holds on one interval of measured values. `TOL_PCT` is below 100 and `e` above 0: at 100, or for `e` = 0,
the lower bound is 0 and a mark below `COMP_US`, compared as 0, matches too, which R146's formula leaves out. -/
def Obligations.MatchesAreIntervals : Prop :=
  ∀ (s : State) (d : U32) (e : Nat), s.cfg.tolPct < 100 → 0 < e →
    let lo := (e * (100 - s.cfg.tolPct) + 99) / 100
    let hi := e * (100 + s.cfg.tolPct) / 100
    hi + s.cfg.compUs < 2 ^ 32 →
    exec (.matchesMark d e) s =
        .next { s with result := .truth (decide (lo + s.cfg.compUs ≤ d.toNat ∧ d.toNat ≤ hi + s.cfg.compUs)) } ∧
    exec (.matchesSpace d e) s =
        .next { s with result := .truth (decide (lo - s.cfg.compUs ≤ d.toNat ∧ d.toNat + s.cfg.compUs ≤ hi)) }

/-- R140: `comp_mark(d)` is `d − COMP_US`, saturated at 0. -/
def Obligations.CompMarkSaturatesAtZero : Prop :=
  ∀ (s : State) (d : U32), ∃ x : U32, exec (.compMark d) s = .next { s with result := .word x } ∧
    x.toNat = if s.cfg.compUs ≤ d.toNat then d.toNat - s.cfg.compUs else 0

/-- R141: `comp_space(d)` is `d + COMP_US`, saturated at `2^32 − 1`. -/
def Obligations.CompSpaceSaturatesAtMax : Prop :=
  ∀ (s : State) (d : U32), ∃ x : U32, exec (.compSpace d) s = .next { s with result := .word x } ∧
    x.toNat = if d.toNat + s.cfg.compUs ≤ 2 ^ 32 - 1 then d.toNat + s.cfg.compUs else 2 ^ 32 - 1

/-- R142 with decision D9: the bounds of the window are the exact rationals, both inclusive. -/
def Obligations.WindowBoundsAreExact : Prop :=
  ∀ (s : State) (c e : Nat), s.cfg.tolPct ≤ 100 →
    ∃ b, exec (.inWindow c e) s = .next { s with result := .truth b } ∧
      (b = true ↔ (e : ℚ) * (100 - s.cfg.tolPct) / 100 ≤ c ∧ (c : ℚ) ≤ (e : ℚ) * (100 + s.cfg.tolPct) / 100)

/-! ### Frames, payloads, commands -/

/-- R84, R85, R153: a repeat frame yields the cached command, and a candidate repeat frame that is not exactly one is
`Unknown`, never a data frame. -/
def Obligations.RepeatFrameYieldsTheCache : Prop :=
  ∀ (s : State) (m r : U32) (tail : List U32) (last : Option Command),
    matchesMark s.cfg m 9000 = true → matchesSpace s.cfg r 2250 = true →
    (∀ b, matchesMark s.cfg b 560 = true →
      exec (.repeatFrame [m, r, b]) s = .next { s with result := .command s.lastCmd } ∧
      exec (.necDecode [m, r, b] last) s = .next { s with result := .command last }) ∧
    ((∀ b, tail = [b] → matchesMark s.cfg b 560 = false) →
      exec (.repeatFrame (m :: r :: tail)) s = .next { s with result := .command none } ∧
      exec (.dataFrame (m :: r :: tail)) s = .next { s with result := .command none } ∧
      exec (.necDecode (m :: r :: tail) last) s = .next { s with result := .command none })

/-- Steps 1, 2, 4 and 5 (R151, R152, R154, R155): each failure is `Unknown`. -/
def Obligations.HeaderAndLengthFailuresAreUnknown : Prop :=
  ∀ (s : State) (es : List U32) (last : Option Command),
    (es.length < 2 ∨ matchesMark s.cfg (es.getD 0 0) 9000 = false ∨
      (matchesSpace s.cfg (es.getD 1 0) 2250 = false ∧
        (matchesSpace s.cfg (es.getD 1 0) 4500 = false ∨ es.length < 66))) →
    exec (.necDecode es last) s = .next { s with result := .command none } ∧
    exec (.dataFrame es) s = .next { s with result := .command none }

/-- R156: a bit mark or a bit space outside its windows aborts, at whichever of the 32 bits it stands. -/
def Obligations.OneBadBitAborts : Prop :=
  ∀ (s : State) (es : List U32) (last : Option Command) (k : Nat), k < 32 → 3 ≠ es.length →
    (matchesMark s.cfg (es.getD (2 + 2 * k) 0) 560 = false ∨
      (matchesSpace s.cfg (es.getD (3 + 2 * k) 0) 1690 = false ∧
        matchesSpace s.cfg (es.getD (3 + 2 * k) 0) 560 = false)) →
    exec (.necDecode es last) s = .next { s with result := .command none } ∧
    exec (.dataFrame es) s = .next { s with result := .command none }

/-- R83, R87, R88, R156 to R158: bit `k` of the payload is the symbol of entry `3 + 2k`, the one-space test first; a valid
payload with a recognized command byte yields that command, every other `Unknown`. -/
def Obligations.DataFrameYieldsItsPayload : Prop :=
  ∀ (s : State) (es : List U32) (last : Option Command) (v : BitVec 32), 66 ≤ es.length →
    matchesMark s.cfg (es.getD 0 0) 9000 = true → matchesSpace s.cfg (es.getD 1 0) 2250 = false →
    matchesSpace s.cfg (es.getD 1 0) 4500 = true →
    (∀ k, k < 32 → matchesMark s.cfg (es.getD (2 + 2 * k) 0) 560 = true) →
    (∀ k, k < 32 → matchesSpace s.cfg (es.getD (3 + 2 * k) 0) 1690 = true ∨
      matchesSpace s.cfg (es.getD (3 + 2 * k) 0) 560 = true) →
    (∀ k, k < 32 → v.getLsbD k = matchesSpace s.cfg (es.getD (3 + 2 * k) 0) 1690) →
    let b := fun k : Nat => v.extractLsb' (8 * k) 8
    let r := if b 0 = ~~~(b 1) ∧ b 2 = ~~~(b 3) ∧ b 2 ∈ s.cfg.cmdTable then some (b 2) else none
    exec (.dataFrame es) s = .next { s with result := .command r } ∧
    exec (.necDecode es last) s = .next { s with result := .command r }

/-- R83, R155: entries at positions 66 and above are ignored. That a list longer than `BUF_CAPACITY` is decoded at all is the
model's choice (log entry 28), here and in the other statements about lists of any length. -/
def Obligations.EntriesFrom66AreIgnored : Prop :=
  ∀ (s : State) (es tail : List U32) (last : Option Command), 66 ≤ es.length →
    exec (.necDecode (es ++ tail) last) s = exec (.necDecode es last) s ∧
    exec (.dataFrame (es ++ tail)) s = exec (.dataFrame es) s

/-- R162, the checksum property: every duration list whose bits assemble to a payload that fails the complement test decodes
to `Unknown`. -/
def Obligations.ChecksumFailuresAreUnknown : Prop :=
  ∀ (s : State) (es : List U32) (last : Option Command) (v : BitVec 32),
    matchesSpace s.cfg (es.getD 1 0) 2250 = false →
    (∀ k, k < 32 → matchesMark s.cfg (es.getD (2 + 2 * k) 0) 560 = true ∧
      (v.getLsbD k = true ∧ matchesSpace s.cfg (es.getD (3 + 2 * k) 0) 1690 = true ∨
        v.getLsbD k = false ∧ matchesSpace s.cfg (es.getD (3 + 2 * k) 0) 1690 = false ∧
          matchesSpace s.cfg (es.getD (3 + 2 * k) 0) 560 = true)) →
    (v.extractLsb' 0 8 ≠ ~~~(v.extractLsb' 8 8) ∨ v.extractLsb' 16 8 ≠ ~~~(v.extractLsb' 24 8)) →
    exec (.necDecode es last) s = .next { s with result := .command none } ∧
    exec (.dataFrame es) s = .next { s with result := .command none }

/-- R161, the idempotent repeat: three recorded durations that are a repeat frame decode to the last command, and the
`Done` arm leaves the cache as it was, whatever a handler does; without one the arm completes. -/
def Obligations.RepeatKeepsTheCache : Prop :=
  ∀ (s : State) (m r b : U32) (c : Command), s.entries = [m, r, b] → s.lastCmd = some c →
    matchesMark s.cfg m 9000 = true → matchesSpace s.cfg r 2250 = true → matchesMark s.cfg b 560 = true →
    exec (.necDecode s.entries s.lastCmd) s = .next { s with result := .command (some c) } ∧
    (s.rxState = .done →
      (∀ t, exec .decDone s = .next t → t.lastCmd = some c) ∧
      (s.handlerSet = false → ∃ t, exec .decDone s = .next t ∧ t.lastCmd = some c))

/-- R163 and R107: the nominal and the pre-distorted expansion of `NEC(a, c)` decode to the command of `c`, for every
address and every command byte; for address 0x00 and command 0x18 that is `Up`, R163's own instance. That a command is its
byte is decision D11; that the 67 entries are decoded where `BUF_CAPACITY` is below 67 is the model's choice (log entry 28). -/
def Obligations.ExpansionsRoundTrip : Prop :=
  ∀ (s : State) (a c : Byte) (last : Option Command), s.cfg.tolPct = 25 → s.cfg.compUs = 100 →
    let r := if c ∈ s.cfg.cmdTable then some c else none
    exec (.dataFrame (nominalFrame (necWord a c))) s = .next { s with result := .command r } ∧
    exec (.dataFrame (predistortedFrame (necWord a c))) s = .next { s with result := .command r } ∧
    exec (.necDecode (nominalFrame (necWord a c)) last) s = .next { s with result := .command r } ∧
    exec (.necDecode (predistortedFrame (necWord a c)) last) s = .next { s with result := .command r } ∧
    (s.cfg.legal = true → a = 0x00#8 → c = 0x18#8 → r = some upByte ∧ necWord a c = 0xE718FF00#32)

/-- R65, R88, R89, R157, R158: a payload given as its four bytes. -/
def Obligations.PayloadYieldsItsCommandByte : Prop :=
  ∀ (s : State) (b0 b1 b2 b3 : Byte),
    let r := if b0 = ~~~b1 ∧ b2 = ~~~b3 ∧ b2 ∈ s.cfg.cmdTable then some b2 else none
    exec (.necPayload (b3 ++ b2 ++ b1 ++ b0 : BitVec 32)) s = .next { s with result := .command r }

/-- The `CMD` rows (R89, R92, R93, R157, R158): a row yields its byte where `b0 = NOT8(b1)` and the configuration's table
recognizes the byte, else `Unknown`. `Up` is in every legal table; the other rows are the table's to recognize (U10). -/
def Obligations.CommandRowsLookUpTheirByte : Prop :=
  ∀ (s : State) (b0 b1 : Byte),
    let out := fun c : Byte =>
      (Outcome.next { s with result := .command (if b0 = ~~~b1 ∧ c ∈ s.cfg.cmdTable then some c else none) } : Answer)
    exec (.cmdUp b0 b1) s = out 0x18#8 ∧ exec (.cmdDown b0 b1) s = out 0x52#8 ∧
    exec (.cmdLeft b0 b1) s = out 0x08#8 ∧ exec (.cmdRight b0 b1) s = out 0x5A#8 ∧
    exec (.cmdOk b0 b1) s = out 0x1C#8 ∧ exec (.cmdDigit1 b0 b1) s = out 0x45#8 ∧
    exec (.cmdDigit2 b0 b1) s = out 0x46#8 ∧ exec (.cmdDigit3 b0 b1) s = out 0x47#8 ∧
    exec (.cmdDigit4 b0 b1) s = out 0x44#8 ∧ exec (.cmdDigit5 b0 b1) s = out 0x40#8 ∧
    exec (.cmdDigit6 b0 b1) s = out 0x43#8 ∧ exec (.cmdDigit7 b0 b1) s = out 0x07#8 ∧
    exec (.cmdDigit8 b0 b1) s = out 0x15#8 ∧ exec (.cmdDigit9 b0 b1) s = out 0x09#8 ∧
    exec (.cmdDigit0 b0 b1) s = out 0x19#8 ∧ exec (.cmdStar b0 b1) s = out 0x16#8 ∧
    exec (.cmdPound b0 b1) s = out 0x0D#8 ∧
    (s.cfg.legal = true → b0 = ~~~b1 → exec (.cmdUp b0 b1) s = .next { s with result := .command (some 0x18#8) })

/-! ### Host operations -/

/-- R170, R196: `configure(0)` fails and changes nothing; the first successful call allocates an empty table; a second has
no meaning (U2) and is refused. -/
def Obligations.ConfigureAllocatesOnce : Prop :=
  ∀ (s : State) (n : Nat),
    exec (.configure 0) s =
      .next { s with result := .invalidCapacity, returns := s.returns ++ [(s.clock, .invalidCapacity)] } ∧
    (0 < n → s.chCapacity = 0 → exec (.configure n) s =
      .next { s with chCapacity := n, ch := [], result := .ok, returns := s.returns ++ [(s.clock, .ok)] }) ∧
    (0 < n → 0 < s.chCapacity → exec (.configure n) s = .refused .secondConfigure)

/-- R171 with decision D15: the new record is the next free slot, low, at 1500 µs and the current clock; the pin is made an
output and driven low; the index is returned. -/
def Obligations.AddAppendsAChannel : Prop :=
  ∀ (s : State) (p : PinId), s.ch.length < s.chCapacity → p ≠ s.cfg.irPin → (∀ c ∈ s.ch, c.pin ≠ p) →
    exec (.add p) s =
      .next { s with
        ch := s.ch ++ [{ pin := p, level := false, pulseTime := 1500#16, lastTransition := s.clock }]
        result := .okIndex s.ch.length
        returns := s.returns ++ [(s.clock, .okIndex s.ch.length)]
        trace := s.trace ++ [(s.clock, .gpioMode p .output), (s.clock, .gpioWrite p false)] }

/-- R194: with the table full nothing changes but the result; so too before any `configure` (D16, capacity 0). -/
def Obligations.AddToAFullTableFails : Prop :=
  ∀ (s : State) (p : PinId), s.chCapacity ≤ s.ch.length →
    exec (.add p) s =
      .next { s with result := .capacityExceeded, returns := s.returns ++ [(s.clock, .capacityExceeded)] }

/-- U6: `IR_PIN` or a pin some channel already has is refused where the table has room. -/
def Obligations.AddRefusesSharedPins : Prop :=
  ∀ (s : State) (p : PinId), s.ch.length < s.chCapacity →
    (p = s.cfg.irPin → exec (.add p) s = .refused .pinIsIrPin) ∧
    (p ≠ s.cfg.irPin → (∃ c ∈ s.ch, c.pin = p) → exec (.add p) s = .refused .pinInUse)

/-- R95, R172 with decision D17 (the floor): one record's pulse time is written, nothing else; nothing is returned. -/
def Obligations.SetTargetWritesOnePulseTime : Prop :=
  ∀ (s : State) (k : Nat) (v : Int) (c : Channel), s.ch[k]? = some c →
    ∃ p : BitVec 16, (p.toNat : Int) = max 1000 (min 2000 ⌊((9000 + 50 * v : Int) : ℚ) / 9⌋) ∧
      exec (.setTarget k v) s = .next { s with ch := s.ch.set k { c with pulseTime := p }, result := .nothing }

/-- R195: an index outside `[0, ch_count)` is a silent no-op. -/
def Obligations.SetTargetOutOfRangeIsSilent : Prop :=
  ∀ (s : State) (k v : Int), (k < 0 ∨ (s.ch.length : Int) ≤ k) →
    exec (.setTarget k v) s = .next { s with result := .nothing }

/-- R178, the clamp property: value 0 and below gives 1000, 180 and above gives 2000, every value stays within. -/
def Obligations.PulseTimesAreClamped : Prop :=
  ∀ (s : State) (k : Nat) (v : Int) (c : Channel), s.ch[k]? = some c →
    ∃ p : BitVec 16, exec (.setTarget k v) s = .next { s with ch := s.ch.set k { c with pulseTime := p }, result := .nothing } ∧
      1000 ≤ p.toNat ∧ p.toNat ≤ 2000 ∧ (v ≤ 0 → p.toNat = 1000) ∧ (180 ≤ v → p.toNat = 2000)

/-- R128 with U1's last-wins: the new handler replaces any other, nothing else changes; from then on the window makes the
new handler's calls. -/
def Obligations.OnReceiveReplacesTheHandler : Prop :=
  ∀ (s : State) (h g : Handler),
    exec (.onReceive h) s = .next { s with handlerSet := true, handler := h, result := .nothing } ∧
    ∀ t u, exec (.onReceive h) s = .next t → exec (.onReceive g) t = .next u → exec (.onReceive g) s = .next u

/-! ### The decoder's arms -/

/-- R121: the falling edge in `Idle` starts a frame; every other tick is a no-op. -/
def Obligations.IdleArmStartsAFrame : Prop :=
  ∀ (s : State) (now : U32) (level : Bool),
    (s.rxState = .idle → s.prevLevel = true → level = false →
      exec (.decIdleStart now level) s = .next { s with bufIdx := 0, edgeRef := now, rxState := .receiving }) ∧
    (¬(s.rxState = .idle ∧ s.prevLevel = true ∧ level = false) → exec (.decIdleStart now level) s = .next s)

/-- R123 to R126: what each arm of `Receiving` does under its guard, and that it does nothing without it. -/
def Obligations.ReceivingArmsUnderTheirGuards : Prop :=
  ∀ (s : State) (now : U32) (level : Bool),
    let d := now - s.edgeRef
    let rx := s.rxState = .receiving
    (rx → level ≠ s.prevLevel → s.bufIdx < s.cfg.bufCapacity →
      exec (.decRxAppend now level) s =
        .next { s with buf := s.buf.write s.bufIdx d, bufIdx := s.bufIdx + 1, edgeRef := now }) ∧
    (¬(rx ∧ level ≠ s.prevLevel ∧ s.bufIdx < s.cfg.bufCapacity) → exec (.decRxAppend now level) s = .next s) ∧
    (rx → level ≠ s.prevLevel → s.bufIdx = s.cfg.bufCapacity →
      exec (.decRxOverflow level) s =
        .next { s with rxState := .done, trace := s.trace ++ [(s.clock, .diagOverflow)] }) ∧
    (¬(rx ∧ level ≠ s.prevLevel ∧ s.bufIdx = s.cfg.bufCapacity) → exec (.decRxOverflow level) s = .next s) ∧
    (rx → level = s.prevLevel → level = true → 10000 < d.toNat →
      exec (.decRxFrameEnd now level) s = .next { s with rxState := .done }) ∧
    (¬(rx ∧ level = s.prevLevel ∧ level = true ∧ 10000 < d.toNat) → exec (.decRxFrameEnd now level) s = .next s) ∧
    (rx → level = s.prevLevel → level = false → 9000 * (100 + s.cfg.tolPct) / 100 < d.toNat →
      exec (.decRxNoiseAbort now level) s = .next { s with rxState := .idle }) ∧
    (¬(rx ∧ level = s.prevLevel ∧ level = false ∧ 9000 * (100 + s.cfg.tolPct) / 100 < d.toNat) →
      exec (.decRxNoiseAbort now level) s = .next s)

/-- R123 and the read of a slot: an append writes the slot `buf_idx` and no other. -/
def Obligations.AppendWritesOneSlot : Prop :=
  ∀ (s : State) (now : U32) (level : Bool), s.rxState = .receiving → level ≠ s.prevLevel →
    s.bufIdx < s.cfg.bufCapacity →
    ∃ t, exec (.decRxAppend now level) s = .next t ∧ t.buf.read s.bufIdx = some (now - s.edgeRef) ∧
      (∀ k, k ≠ s.bufIdx → t.buf.read k = s.buf.read k) ∧ (Memory.wf s.buf → Memory.wf t.buf)

/-- R122: exactly one arm of `Receiving` acts, and an edge has priority over both termination tests; the dispatch always
completes. -/
def Obligations.ReceivingDispatchesToOneArm : Prop :=
  ∀ (s : State) (now : U32) (level : Bool), s.rxState = .receiving → s.bufIdx ≤ s.cfg.bufCapacity →
    (exec (.receivingDispatch now level) s =
      if level ≠ s.prevLevel then
        if s.bufIdx < s.cfg.bufCapacity then exec (.decRxAppend now level) s else exec (.decRxOverflow level) s
      else if level = true then exec (.decRxFrameEnd now level) s
      else exec (.decRxNoiseAbort now level) s) ∧
    ∃ t, exec (.receivingDispatch now level) s = .next t ∧ t.ch = s.ch ∧ t.lastCmd = s.lastCmd ∧
      t.prevLevel = s.prevLevel

/-- R127 (D12): the `Done` arm on `Unknown`, on a known command without a handler, and with one. -/
def Obligations.DoneArmAnnouncesAKnownCommand : Prop :=
  ∀ s : State,
    (s.rxState ≠ .done → exec .decDone s = .next s) ∧
    (s.rxState = .done →
      (exec (.necDecode s.entries s.lastCmd) s = .next { s with result := .command none } →
        exec .decDone s = .next { s with rxState := .idle }) ∧
      ∀ c, exec (.necDecode s.entries s.lastCmd) s = .next { s with result := .command (some c) } →
        let told := { s with lastCmd := some c, trace := s.trace ++ [(s.clock, .command c)] }
        (s.handlerSet = false → exec .decDone s = .next { told with rxState := .idle }) ∧
        (s.handlerSet = true → ∀ t,
          exec .decDone s = .next t ↔
            ∃ u, exec (.decHandlerWindow c) told = .next u ∧ t = { u with rxState := .idle }))

/-- R129: the handler's calls are the host operations themselves, in its order; targets alone change pulse times and the last
result alone (log entry 17); a call it must not make has no meaning (U7), whatever calls came before it; the window opens
only in `Done` with a handler registered. -/
def Obligations.HandlerWindowRunsHostOperations : Prop :=
  ∀ (s : State) (c : Command),
    (¬(s.rxState = .done ∧ s.handlerSet = true) → exec (.decHandlerWindow c) s = .next s) ∧
    (s.rxState = .done → s.handlerSet = true →
      (∀ calls : List (Int × Int ⊕ PinId),
        handlerCalls s.handler c = calls.map (Sum.elim (fun a => .setTarget a.1 a.2) .add) →
        exec (.decHandlerWindow c) s =
          calls.foldl (fun o a => andThen o (exec (Sum.elim (fun a => .setTarget a.1 a.2) .add a))) (.next s)) ∧
      (∀ targets : List (Int × Int), handlerCalls s.handler c = targets.map (fun a => .setTarget a.1 a.2) →
        ∃ t, exec (.decHandlerWindow c) s = .next t ∧ t = { s with ch := t.ch, result := t.result } ∧
          t.ch.map (fun x => (x.pin, x.level, x.lastTransition)) =
            s.ch.map (fun x => (x.pin, x.level, x.lastTransition))) ∧
      (∀ (calls : List (Int × Int ⊕ PinId)) (call : ForbiddenCall) (ops : List HandlerOp),
        handlerCalls s.handler c =
          calls.map (Sum.elim (fun a => .setTarget a.1 a.2) .add) ++ .forbidden call :: ops →
        exec (.decHandlerWindow c) s =
          andThen (calls.foldl (fun o a => andThen o (exec (Sum.elim (fun a => .setTarget a.1 a.2) .add a))) (.next s))
            (fun _ => .refused (.handlerReentry call))))

/-- R120: the arm of the state held at the start, then the sample, in every state; without a handler's window the update
always completes. -/
def Obligations.DecoderUpdateRunsOneArmThenSamples : Prop :=
  ∀ (s t : State) (now : U32) (level : Bool),
    (exec (.decoderUpdate now level) s = .next t ↔
      ∃ u, exec (match s.rxState with
            | .idle => .decIdleStart now level
            | .receiving => .receivingDispatch now level
            | .done => .decDone) s = .next u ∧ t = { u with prevLevel := level }) ∧
    ((s.rxState = .done → s.handlerSet = false) → ∃ t, exec (.decoderUpdate now level) s = .next t)

/-! ### The scheduler's arms -/

/-- R173: a high channel falls when the elapsed time strictly exceeds its pulse time; otherwise nothing. -/
def Obligations.FallArmDrivesLow : Prop :=
  ∀ (s : State) (k : Nat) (now : U32) (c : Channel), s.ch[k]? = some c →
    (c.level = true → c.pulseTime.toNat < (now - c.lastTransition).toNat →
      exec (.pwmFall k now) s =
        .next { s with
          ch := s.ch.set k { c with level := false, lastTransition := now }
          trace := s.trace ++ [(s.clock, .gpioWrite c.pin false)] }) ∧
    (¬(c.level = true ∧ c.pulseTime.toNat < (now - c.lastTransition).toNat) → exec (.pwmFall k now) s = .next s)

/-- R174: a low channel rises when the elapsed time strictly exceeds the rest of the frame; otherwise nothing. -/
def Obligations.RiseArmDrivesHigh : Prop :=
  ∀ (s : State) (k : Nat) (now : U32) (c : Channel), s.ch[k]? = some c →
    let due := c.level = false ∧ (20000 : Int) - c.pulseTime.toNat < (now - c.lastTransition).toNat
    (due → exec (.pwmRise k now) s =
        .next { s with
          ch := s.ch.set k { c with level := true, lastTransition := now }
          trace := s.trace ++ [(s.clock, .gpioWrite c.pin true)] }) ∧
    (¬due → exec (.pwmRise k now) s = .next s)

/-- R175, R33(b): every record takes one turn, by R173 or R174, and no record changes but by its own turn; the writes stand
in ascending order (D19); nothing else changes. An arm for an index without a record does nothing: there is none to change
(R32). -/
def Obligations.SchedulerUpdateTurnsEveryChannel : Prop :=
  ∀ (s : State) (now : U32), ∃ t, exec (.schedulerUpdate now) s = .next t ∧
    t = { s with ch := t.ch, trace := t.trace } ∧ t.ch.length = s.ch.length ∧
    t.trace = s.trace ++ (turnEvents now s.ch).map (fun e => (s.clock, e)) ∧
    (∀ k, s.ch.length ≤ k → exec (.pwmFall k now) s = .next s ∧ exec (.pwmRise k now) s = .next s) ∧
    ∀ k c, s.ch[k]? = some c →
      (∀ u, exec (.pwmFall k now) s = .next u → u ≠ s → t.ch[k]? = u.ch[k]?) ∧
      (∀ u, exec (.pwmRise k now) s = .next u → u ≠ s → t.ch[k]? = u.ch[k]?) ∧
      (exec (.pwmFall k now) s = .next s → exec (.pwmRise k now) s = .next s → t.ch[k]? = some c)

/-! ### The pass -/

/-- R111: a tick adds `TICK_US`, modulo `2^32`; nothing else writes the clock; `k` ticks add `k × TICK_US`. With `missed`
above 0 a tick adds `TICK_US` for each fire of the tick source: the spec's optional R118, taken by log entry 10. -/
def Obligations.OnlyTicksAdvanceTheClock : Prop :=
  (∀ (s t : State) (irIn : Bool) (missed : Nat), exec (.tick irIn missed) s = .next t →
    t.clock.toNat = (s.clock.toNat + (missed + 1) * s.cfg.tickUs) % 2 ^ 32) ∧
  (∀ (s t : State) (i : Instr), (∀ irIn missed, i ≠ .tick irIn missed) → exec i s = .next t → t.clock = s.clock) ∧
  (∀ (s t : State) (levels : List Bool), runTicks levels s = .next t →
    t.clock.toNat = (s.clock.toNat + levels.length * s.cfg.tickUs) % 2 ^ 32)

/-- R110, R121, R130: the whole next state of a tick in `Idle`. `missed` = 0 is the normative tick; above 0 it is the optional
R118 (log entry 10). -/
def Obligations.TickInIdle : Prop :=
  ∀ (s : State) (irIn : Bool) (missed : Nat), s.rxState = .idle →
    let now := s.clock + BitVec.ofNat 32 ((missed + 1) * s.cfg.tickUs)
    let after := { s with
      clock := now, prevLevel := irIn, ch := s.ch.map (turned now)
      trace := s.trace ++ (turnEvents now s.ch).map (fun e => (now, e)) }
    exec (.tick irIn missed) s =
      .next (if s.prevLevel = true ∧ irIn = false then
        { after with bufIdx := 0, edgeRef := now, rxState := .receiving } else after)

/-- R110, R122 to R126, R130 with decisions D8, D10, D22: the whole next state of a tick in `Receiving`. `missed` = 0 is the
normative tick; above 0 it is the optional R118 (log entry 10). -/
def Obligations.TickInReceiving : Prop :=
  ∀ (s : State) (irIn : Bool) (missed : Nat), s.rxState = .receiving →
    let now := s.clock + BitVec.ofNat 32 ((missed + 1) * s.cfg.tickUs)
    let d := now - s.edgeRef
    let writes := (turnEvents now s.ch).map (fun e => (now, e))
    let after := { s with
      clock := now, prevLevel := irIn, ch := s.ch.map (turned now), trace := s.trace ++ writes }
    exec (.tick irIn missed) s =
      .next (if irIn ≠ s.prevLevel then
          if s.bufIdx < s.cfg.bufCapacity then
            { after with buf := s.buf.write s.bufIdx d, bufIdx := s.bufIdx + 1, edgeRef := now }
          else { after with rxState := .done, trace := s.trace ++ (now, .diagOverflow) :: writes }
        else if irIn = true ∧ 10000 < d.toNat then { after with rxState := .done }
        else if irIn = false ∧ 9000 * (100 + s.cfg.tolPct) / 100 < d.toNat then { after with rxState := .idle }
        else after)

/-- R110, R127, R129, R203, R204 with decisions D7, D12: the whole next state of a tick in `Done`: on `Unknown`, on a known
command without a handler, and with any handler, through its window on the announced state, refusals included; then the
two plainest handlers written out: one that makes no call, one that sets one target, which the scheduler update of the
same pass sees. That `result` keeps what a handler's call returned is log entry 17; `missed` = 0 is the normative tick,
above 0 it is the optional R118 (log entry 10). -/
def Obligations.TickInDone : Prop :=
  ∀ (s : State) (irIn : Bool) (missed : Nat), s.rxState = .done →
    let now := s.clock + BitVec.ofNat 32 ((missed + 1) * s.cfg.tickUs)
    let finish := fun (chs : List Channel) (told : List (U32 × Event)) => { s with
      clock := now, prevLevel := irIn, rxState := .idle, ch := chs.map (turned now)
      trace := s.trace ++ told ++ (turnEvents now chs).map (fun e => (now, e)) }
    (decodeNec s.cfg s.entries s.lastCmd = none → exec (.tick irIn missed) s = .next (finish s.ch [])) ∧
    ∀ c, decodeNec s.cfg s.entries s.lastCmd = some c →
      (s.handlerSet = false →
        exec (.tick irIn missed) s = .next { finish s.ch [(now, .command c)] with lastCmd := some c }) ∧
      (s.handlerSet = true →
        let told := { s with clock := now, lastCmd := some c, trace := s.trace ++ [(now, .command c)] }
        (∀ t, exec (.tick irIn missed) s = .next t ↔
          ∃ u, exec (.decHandlerWindow c) told = .next u ∧
            t = { u with
              prevLevel := irIn, rxState := .idle, ch := u.ch.map (turned now)
              trace := u.trace ++ (turnEvents now u.ch).map (fun e => (now, e)) }) ∧
        ∀ r, exec (.tick irIn missed) s = .refused r ↔ exec (.decHandlerWindow c) told = .refused r) ∧
      (s.handlerSet = true → handlerCalls s.handler c = [] →
        exec (.tick irIn missed) s = .next { finish s.ch [(now, .command c)] with lastCmd := some c }) ∧
      (s.handlerSet = true → ∀ (k : Nat) (v : Int) (x : Channel), s.ch[k]? = some x →
        handlerCalls s.handler c = [.setTarget k v] →
        exec (.tick irIn missed) s =
          .next { finish (s.ch.set k { x with pulseTime := pulseOf v }) [(now, .command c)] with
            lastCmd := some c, result := .nothing })

/-- R110, R129, R190: a pass fails for nothing but a handler's call that has no meaning, and completes with every handler
that only sets targets; also a pass after missed fires (log entry 10). -/
def Obligations.PassesFailOnlyInTheHandler : Prop :=
  ∀ (s : State) (irIn : Bool) (missed : Nat),
    (∀ r, exec (.tick irIn missed) s = .refused r →
      s.rxState = .done ∧ s.handlerSet = true ∧ ∃ c, decodeNec s.cfg s.entries s.lastCmd = some c ∧
        ((∃ call, r = .handlerReentry call ∧ .forbidden call ∈ handlerCalls s.handler c) ∨
          (∃ p, .add p ∈ handlerCalls s.handler c ∧ (r = .pinInUse ∨ r = .pinIsIrPin)))) ∧
    ((s.rxState = .done → s.handlerSet = true →
        ∀ c, decodeNec s.cfg s.entries s.lastCmd = some c → onlySetsTargets s.handler c = true) →
      ∃ t, exec (.tick irIn missed) s = .next t)

/-- R27, R42, R100, R127: the cache changes, and a `Command` event appears, only in `Done` on a known result, once, and the
cache then holds that command; also in a pass after missed fires (log entry 10). -/
def Obligations.CommandsComeOnlyFromDone : Prop :=
  ∀ (s t : State) (irIn : Bool) (missed : Nat), exec (.tick irIn missed) s = .next t →
    ∃ new, t.trace = s.trace ++ new ∧
      ((s.rxState ≠ .done ∨ decodeNec s.cfg s.entries s.lastCmd = none) →
        t.lastCmd = s.lastCmd ∧ new.filter (fun e => e.2.isCommand) = []) ∧
      (s.rxState = .done → ∀ c, decodeNec s.cfg s.entries s.lastCmd = some c →
        t.lastCmd = some c ∧ new.filter (fun e => e.2.isCommand) = [(t.clock, .command c)])

/-! ### Whole-machine rules -/

/-- R36: no step changes the configuration. -/
def Obligations.ConfigurationIsConstant : Prop := ∀ s t : State, step s = .next t → t.cfg = s.cfg

/-- R42: a step only adds events, and results of host operations, each stamped with the clock of the pass or operation that
made it. -/
def Obligations.TraceOnlyGrows : Prop :=
  ∀ s t : State, step s = .next t → 
    (∃ new, t.trace = s.trace ++ new ∧ ∀ e ∈ new, e.1 = t.clock) ∧
    ∃ new, t.returns = s.returns ++ new ∧ ∀ r ∈ new, r.1 = t.clock

/-- R46, R206: the scheduler's operations leave the decoder's state, the decoder's arms leave the channel table. -/
def Obligations.StateHasOneOwner : Prop :=
  ∀ (s t : State) (now : U32) (level : Bool) (k : Nat) (n : Nat) (p : PinId) (j v : Int),
    (∀ i ∈ [Instr.configure n, .add p, .setTarget j v, .pwmFall k now, .pwmRise k now, .schedulerUpdate now],
      exec i s = .next t →
        t.rxState = s.rxState ∧ t.buf = s.buf ∧ t.bufIdx = s.bufIdx ∧ t.edgeRef = s.edgeRef ∧
        t.prevLevel = s.prevLevel ∧ t.lastCmd = s.lastCmd ∧ t.handlerSet = s.handlerSet ∧ t.handler = s.handler) ∧
    (∀ i ∈ [Instr.decIdleStart now level, .decRxAppend now level, .decRxOverflow level, .decRxFrameEnd now level,
        .decRxNoiseAbort now level, .receivingDispatch now level],
      exec i s = .next t →
        t.ch = s.ch ∧ t.chCapacity = s.chCapacity ∧ t.lastCmd = s.lastCmd ∧ t.handlerSet = s.handlerSet ∧
        t.prevLevel = s.prevLevel ∧ t.result = s.result ∧ t.returns = s.returns)

/-- R46, R181: without a handler the two machines do not see each other: a pass does to the decoder's state the same whatever
the channel table, and to the table the same whatever the decoder's state. -/
def Obligations.MachinesDoNotInterfere : Prop :=
  ∀ (s s' t t' : State) (irIn : Bool) (missed : Nat),
    s.handlerSet = false → s'.handlerSet = false → s.cfg = s'.cfg → s.clock = s'.clock →
    exec (.tick irIn missed) s = .next t → exec (.tick irIn missed) s' = .next t' →
    ((s.rxState = s'.rxState ∧ s.buf = s'.buf ∧ s.bufIdx = s'.bufIdx ∧ s.prevLevel = s'.prevLevel ∧
        s.edgeRef = s'.edgeRef ∧ s.lastCmd = s'.lastCmd) →
      t.rxState = t'.rxState ∧ t.buf = t'.buf ∧ t.bufIdx = t'.bufIdx ∧ t.prevLevel = t'.prevLevel ∧
        t.edgeRef = t'.edgeRef ∧ t.lastCmd = t'.lastCmd) ∧
    (s.ch = s'.ch → t.ch = t'.ch)

/-- U4, R22, R151: in every state of the invariant the frame's entries are what was written, whatever an unwritten slot holds:
no result rests on the free value. -/
def Obligations.UnwrittenSlotsNeverMatter : Prop :=
  ∀ (s : State) (any : Nat → U32), Inv s →
    s.entries = (List.range s.bufIdx).map (fun k => (s.buf.read k).getD (any k))

/-- R131: from `Receiving` the decoder leaves within `(BUF_CAPACITY + 1) × (max(FRAME_GAP_US, MARK_ABORT_US) / TICK_US + 1)`
ticks, whatever the pin does. The tick period is below `2^31`, so that a duration does not wrap on the way (R115); longer
periods are left out. -/
def Obligations.ReceivingEnds : Prop :=
  ∀ (s : State) (levels : List Bool), Inv s → s.rxState = .receiving → s.cfg.tickUs < 2 ^ 31 →
    (s.cfg.bufCapacity + 1) * (max frameGapUs (markAbortUs s.cfg) / s.cfg.tickUs + 1) ≤ levels.length →
    ∃ n t, n ≤ levels.length ∧ runTicks (levels.take n) s = .next t ∧ t.rxState ≠ .receiving

/-- R176, R180: whatever the pin and the decoder do, a phase that begins at the current clock lasts exactly
`(floor(threshold / TICK_US) + 1) × TICK_US`, the threshold being the pulse time of a high phase and the rest of the frame
of a low one. No handler is registered, since a handler may change the pulse time (R179); tick periods of `2^31` and above,
where an elapsed time can wrap, are left out. -/
def Obligations.PhasesLastOneTickOverTheirThreshold : Prop :=
  ∀ (s : State) (k : Nat) (c : Channel) (levels : List Bool), Inv s → s.handlerSet = false → s.cfg.tickUs < 2 ^ 31 →
    s.ch[k]? = some c → c.lastTransition = s.clock →
    let n := (if c.level then c.pulseTime.toNat else pwmPeriodUs - c.pulseTime.toNat) / s.cfg.tickUs
    (levels.length ≤ n → ∃ t, runTicks levels s = .next t ∧ t.ch[k]? = some c ∧
      t.clock = s.clock + BitVec.ofNat 32 (levels.length * s.cfg.tickUs)) ∧
    (levels.length = n + 1 → ∃ t, runTicks levels s = .next t ∧
      t.ch[k]? = some { c with level := !c.level, lastTransition := t.clock } ∧
      t.clock = s.clock + BitVec.ofNat 32 ((n + 1) * s.cfg.tickUs))

/-- R86, R105, R132: a waveform of phases, the first and the last a mark, closed by the frame-end gap, is recorded as the
durations of its phases, the gap itself not; the decoder is then in `Done`. Each phase is as long as the decoder can record:
the tick before its closing edge is within the threshold of its kind, `MARK_ABORT_US` for a mark and `FRAME_GAP_US` for a
space (R122, R125, R126). Tick periods of `2^31` and above, where a duration can wrap, are left out. -/
def Obligations.WaveformsAreRecorded : Prop :=
  ∀ (s : State) (ns : List Nat), s.cfg.legal = true → s.rxState = .idle → s.prevLevel = true → s.cfg.tickUs < 2 ^ 31 →
    ns.length % 2 = 1 → ns.length ≤ s.cfg.bufCapacity →
    (∀ k n, ns[k]? = some n →
      1 ≤ n ∧ (n - 1) * s.cfg.tickUs ≤ if k % 2 = 0 then markAbortUs s.cfg else frameGapUs) →
    ∃ t, runTicks (waveform false ns ++ List.replicate (frameGapUs / s.cfg.tickUs + 2) true) s = .next t ∧
      t.rxState = .done ∧ t.entries = ns.map (fun n => BitVec.ofNat 32 (n * s.cfg.tickUs)) ∧
      t.lastCmd = s.lastCmd ∧ t.prevLevel = true ∧ t.cfg = s.cfg

/-- R110, R112 with decision D14: a tick is the clock's advance, then the decoder update, then the scheduler update, both at
the clock it wrote; a decoder update that is refused refuses the pass. `missed` = 0 is the normative tick; above 0 it is the
optional R118 (log entry 10). -/
def Obligations.TickRunsItsPartsInOrder : Prop :=
  ∀ (s : State) (irIn : Bool) (missed : Nat),
    let s1 := { s with clock := s.clock + BitVec.ofNat 32 ((missed + 1) * s.cfg.tickUs) }
    exec (.tick irIn missed) s =
      andThen (exec (.decoderUpdate s1.clock irIn) s1) (fun u => exec (.schedulerUpdate s1.clock) u)
end

