-- ==== Sys2Proof/Laws/State.lean ====
section
/-! SUPPORT. One lemma per field per update of the state, so that no later proof unfolds a record update. -/

namespace Sys2Proof.Machine

variable (s : State)

/-! ### `setResult` -/

@[simp] theorem setResult_cfg (r : Result) : (s.setResult r).cfg = s.cfg := rfl
@[simp] theorem setResult_clock (r : Result) : (s.setResult r).clock = s.clock := rfl
@[simp] theorem setResult_rxState (r : Result) : (s.setResult r).rxState = s.rxState := rfl
@[simp] theorem setResult_buf (r : Result) : (s.setResult r).buf = s.buf := rfl
@[simp] theorem setResult_bufIdx (r : Result) : (s.setResult r).bufIdx = s.bufIdx := rfl
@[simp] theorem setResult_prevLevel (r : Result) : (s.setResult r).prevLevel = s.prevLevel := rfl
@[simp] theorem setResult_edgeRef (r : Result) : (s.setResult r).edgeRef = s.edgeRef := rfl
@[simp] theorem setResult_lastCmd (r : Result) : (s.setResult r).lastCmd = s.lastCmd := rfl
@[simp] theorem setResult_handlerSet (r : Result) : (s.setResult r).handlerSet = s.handlerSet := rfl
@[simp] theorem setResult_chCapacity (r : Result) : (s.setResult r).chCapacity = s.chCapacity := rfl
@[simp] theorem setResult_ch (r : Result) : (s.setResult r).ch = s.ch := rfl
@[simp] theorem setResult_handler (r : Result) : (s.setResult r).handler = s.handler := rfl
@[simp] theorem setResult_inbox (r : Result) : (s.setResult r).inbox = s.inbox := rfl
@[simp] theorem setResult_result (r : Result) : (s.setResult r).result = r := rfl
@[simp] theorem setResult_trace (r : Result) : (s.setResult r).trace = s.trace := rfl
@[simp] theorem setResult_returns (r : Result) : (s.setResult r).returns = s.returns := rfl

/-! ### `returnResult` -/

@[simp] theorem returnResult_cfg (r : Result) : (s.returnResult r).cfg = s.cfg := rfl
@[simp] theorem returnResult_clock (r : Result) : (s.returnResult r).clock = s.clock := rfl
@[simp] theorem returnResult_rxState (r : Result) : (s.returnResult r).rxState = s.rxState := rfl
@[simp] theorem returnResult_buf (r : Result) : (s.returnResult r).buf = s.buf := rfl
@[simp] theorem returnResult_bufIdx (r : Result) : (s.returnResult r).bufIdx = s.bufIdx := rfl
@[simp] theorem returnResult_prevLevel (r : Result) : (s.returnResult r).prevLevel = s.prevLevel := rfl
@[simp] theorem returnResult_edgeRef (r : Result) : (s.returnResult r).edgeRef = s.edgeRef := rfl
@[simp] theorem returnResult_lastCmd (r : Result) : (s.returnResult r).lastCmd = s.lastCmd := rfl
@[simp] theorem returnResult_handlerSet (r : Result) : (s.returnResult r).handlerSet = s.handlerSet := rfl
@[simp] theorem returnResult_chCapacity (r : Result) : (s.returnResult r).chCapacity = s.chCapacity := rfl
@[simp] theorem returnResult_ch (r : Result) : (s.returnResult r).ch = s.ch := rfl
@[simp] theorem returnResult_handler (r : Result) : (s.returnResult r).handler = s.handler := rfl
@[simp] theorem returnResult_inbox (r : Result) : (s.returnResult r).inbox = s.inbox := rfl
@[simp] theorem returnResult_result (r : Result) : (s.returnResult r).result = r := rfl
@[simp] theorem returnResult_trace (r : Result) : (s.returnResult r).trace = s.trace := rfl
@[simp] theorem returnResult_returns (r : Result) : (s.returnResult r).returns = s.returns ++ [(s.clock, r)] := rfl

/-! ### `emit` -/

@[simp] theorem emit_cfg (e : Event) : (s.emit e).cfg = s.cfg := rfl
@[simp] theorem emit_clock (e : Event) : (s.emit e).clock = s.clock := rfl
@[simp] theorem emit_rxState (e : Event) : (s.emit e).rxState = s.rxState := rfl
@[simp] theorem emit_buf (e : Event) : (s.emit e).buf = s.buf := rfl
@[simp] theorem emit_bufIdx (e : Event) : (s.emit e).bufIdx = s.bufIdx := rfl
@[simp] theorem emit_prevLevel (e : Event) : (s.emit e).prevLevel = s.prevLevel := rfl
@[simp] theorem emit_edgeRef (e : Event) : (s.emit e).edgeRef = s.edgeRef := rfl
@[simp] theorem emit_lastCmd (e : Event) : (s.emit e).lastCmd = s.lastCmd := rfl
@[simp] theorem emit_handlerSet (e : Event) : (s.emit e).handlerSet = s.handlerSet := rfl
@[simp] theorem emit_chCapacity (e : Event) : (s.emit e).chCapacity = s.chCapacity := rfl
@[simp] theorem emit_ch (e : Event) : (s.emit e).ch = s.ch := rfl
@[simp] theorem emit_handler (e : Event) : (s.emit e).handler = s.handler := rfl
@[simp] theorem emit_inbox (e : Event) : (s.emit e).inbox = s.inbox := rfl
@[simp] theorem emit_result (e : Event) : (s.emit e).result = s.result := rfl
@[simp] theorem emit_trace (e : Event) : (s.emit e).trace = s.trace ++ [(s.clock, e)] := rfl
@[simp] theorem emit_returns (e : Event) : (s.emit e).returns = s.returns := rfl

/-! ### `advanceClock` -/

@[simp] theorem advanceClock_cfg (n : Nat) : (s.advanceClock n).cfg = s.cfg := rfl
@[simp] theorem advanceClock_clock (n : Nat) : (s.advanceClock n).clock = s.clock + BitVec.ofNat 32 (n * s.cfg.tickUs) := rfl
@[simp] theorem advanceClock_rxState (n : Nat) : (s.advanceClock n).rxState = s.rxState := rfl
@[simp] theorem advanceClock_buf (n : Nat) : (s.advanceClock n).buf = s.buf := rfl
@[simp] theorem advanceClock_bufIdx (n : Nat) : (s.advanceClock n).bufIdx = s.bufIdx := rfl
@[simp] theorem advanceClock_prevLevel (n : Nat) : (s.advanceClock n).prevLevel = s.prevLevel := rfl
@[simp] theorem advanceClock_edgeRef (n : Nat) : (s.advanceClock n).edgeRef = s.edgeRef := rfl
@[simp] theorem advanceClock_lastCmd (n : Nat) : (s.advanceClock n).lastCmd = s.lastCmd := rfl
@[simp] theorem advanceClock_handlerSet (n : Nat) : (s.advanceClock n).handlerSet = s.handlerSet := rfl
@[simp] theorem advanceClock_chCapacity (n : Nat) : (s.advanceClock n).chCapacity = s.chCapacity := rfl
@[simp] theorem advanceClock_ch (n : Nat) : (s.advanceClock n).ch = s.ch := rfl
@[simp] theorem advanceClock_handler (n : Nat) : (s.advanceClock n).handler = s.handler := rfl
@[simp] theorem advanceClock_inbox (n : Nat) : (s.advanceClock n).inbox = s.inbox := rfl
@[simp] theorem advanceClock_result (n : Nat) : (s.advanceClock n).result = s.result := rfl
@[simp] theorem advanceClock_trace (n : Nat) : (s.advanceClock n).trace = s.trace := rfl
@[simp] theorem advanceClock_returns (n : Nat) : (s.advanceClock n).returns = s.returns := rfl

/-! ### `sample` -/

@[simp] theorem sample_cfg (b : Bool) : (s.sample b).cfg = s.cfg := rfl
@[simp] theorem sample_clock (b : Bool) : (s.sample b).clock = s.clock := rfl
@[simp] theorem sample_rxState (b : Bool) : (s.sample b).rxState = s.rxState := rfl
@[simp] theorem sample_buf (b : Bool) : (s.sample b).buf = s.buf := rfl
@[simp] theorem sample_bufIdx (b : Bool) : (s.sample b).bufIdx = s.bufIdx := rfl
@[simp] theorem sample_prevLevel (b : Bool) : (s.sample b).prevLevel = b := rfl
@[simp] theorem sample_edgeRef (b : Bool) : (s.sample b).edgeRef = s.edgeRef := rfl
@[simp] theorem sample_lastCmd (b : Bool) : (s.sample b).lastCmd = s.lastCmd := rfl
@[simp] theorem sample_handlerSet (b : Bool) : (s.sample b).handlerSet = s.handlerSet := rfl
@[simp] theorem sample_chCapacity (b : Bool) : (s.sample b).chCapacity = s.chCapacity := rfl
@[simp] theorem sample_ch (b : Bool) : (s.sample b).ch = s.ch := rfl
@[simp] theorem sample_handler (b : Bool) : (s.sample b).handler = s.handler := rfl
@[simp] theorem sample_inbox (b : Bool) : (s.sample b).inbox = s.inbox := rfl
@[simp] theorem sample_result (b : Bool) : (s.sample b).result = s.result := rfl
@[simp] theorem sample_trace (b : Bool) : (s.sample b).trace = s.trace := rfl
@[simp] theorem sample_returns (b : Bool) : (s.sample b).returns = s.returns := rfl

/-! ### `startFrame` -/

@[simp] theorem startFrame_cfg (now : U32) : (startFrame now s).cfg = s.cfg := rfl
@[simp] theorem startFrame_clock (now : U32) : (startFrame now s).clock = s.clock := rfl
@[simp] theorem startFrame_rxState (now : U32) : (startFrame now s).rxState = .receiving := rfl
@[simp] theorem startFrame_buf (now : U32) : (startFrame now s).buf = s.buf := rfl
@[simp] theorem startFrame_bufIdx (now : U32) : (startFrame now s).bufIdx = 0 := rfl
@[simp] theorem startFrame_prevLevel (now : U32) : (startFrame now s).prevLevel = s.prevLevel := rfl
@[simp] theorem startFrame_edgeRef (now : U32) : (startFrame now s).edgeRef = now := rfl
@[simp] theorem startFrame_lastCmd (now : U32) : (startFrame now s).lastCmd = s.lastCmd := rfl
@[simp] theorem startFrame_handlerSet (now : U32) : (startFrame now s).handlerSet = s.handlerSet := rfl
@[simp] theorem startFrame_chCapacity (now : U32) : (startFrame now s).chCapacity = s.chCapacity := rfl
@[simp] theorem startFrame_ch (now : U32) : (startFrame now s).ch = s.ch := rfl
@[simp] theorem startFrame_handler (now : U32) : (startFrame now s).handler = s.handler := rfl
@[simp] theorem startFrame_inbox (now : U32) : (startFrame now s).inbox = s.inbox := rfl
@[simp] theorem startFrame_result (now : U32) : (startFrame now s).result = s.result := rfl
@[simp] theorem startFrame_trace (now : U32) : (startFrame now s).trace = s.trace := rfl
@[simp] theorem startFrame_returns (now : U32) : (startFrame now s).returns = s.returns := rfl

/-! ### `appendEdge` -/

@[simp] theorem appendEdge_cfg (now : U32) : (appendEdge now s).cfg = s.cfg := rfl
@[simp] theorem appendEdge_clock (now : U32) : (appendEdge now s).clock = s.clock := rfl
@[simp] theorem appendEdge_rxState (now : U32) : (appendEdge now s).rxState = s.rxState := rfl
@[simp] theorem appendEdge_buf (now : U32) : (appendEdge now s).buf = s.buf.write s.bufIdx (s.duration now) := rfl
@[simp] theorem appendEdge_bufIdx (now : U32) : (appendEdge now s).bufIdx = s.bufIdx + 1 := rfl
@[simp] theorem appendEdge_prevLevel (now : U32) : (appendEdge now s).prevLevel = s.prevLevel := rfl
@[simp] theorem appendEdge_edgeRef (now : U32) : (appendEdge now s).edgeRef = now := rfl
@[simp] theorem appendEdge_lastCmd (now : U32) : (appendEdge now s).lastCmd = s.lastCmd := rfl
@[simp] theorem appendEdge_handlerSet (now : U32) : (appendEdge now s).handlerSet = s.handlerSet := rfl
@[simp] theorem appendEdge_chCapacity (now : U32) : (appendEdge now s).chCapacity = s.chCapacity := rfl
@[simp] theorem appendEdge_ch (now : U32) : (appendEdge now s).ch = s.ch := rfl
@[simp] theorem appendEdge_handler (now : U32) : (appendEdge now s).handler = s.handler := rfl
@[simp] theorem appendEdge_inbox (now : U32) : (appendEdge now s).inbox = s.inbox := rfl
@[simp] theorem appendEdge_result (now : U32) : (appendEdge now s).result = s.result := rfl
@[simp] theorem appendEdge_trace (now : U32) : (appendEdge now s).trace = s.trace := rfl
@[simp] theorem appendEdge_returns (now : U32) : (appendEdge now s).returns = s.returns := rfl

/-! ### `overflowDone` -/

@[simp] theorem overflowDone_cfg : (overflowDone s).cfg = s.cfg := rfl
@[simp] theorem overflowDone_clock : (overflowDone s).clock = s.clock := rfl
@[simp] theorem overflowDone_rxState : (overflowDone s).rxState = .done := rfl
@[simp] theorem overflowDone_buf : (overflowDone s).buf = s.buf := rfl
@[simp] theorem overflowDone_bufIdx : (overflowDone s).bufIdx = s.bufIdx := rfl
@[simp] theorem overflowDone_prevLevel : (overflowDone s).prevLevel = s.prevLevel := rfl
@[simp] theorem overflowDone_edgeRef : (overflowDone s).edgeRef = s.edgeRef := rfl
@[simp] theorem overflowDone_lastCmd : (overflowDone s).lastCmd = s.lastCmd := rfl
@[simp] theorem overflowDone_handlerSet : (overflowDone s).handlerSet = s.handlerSet := rfl
@[simp] theorem overflowDone_chCapacity : (overflowDone s).chCapacity = s.chCapacity := rfl
@[simp] theorem overflowDone_ch : (overflowDone s).ch = s.ch := rfl
@[simp] theorem overflowDone_handler : (overflowDone s).handler = s.handler := rfl
@[simp] theorem overflowDone_inbox : (overflowDone s).inbox = s.inbox := rfl
@[simp] theorem overflowDone_result : (overflowDone s).result = s.result := rfl
@[simp] theorem overflowDone_trace : (overflowDone s).trace = s.trace ++ [(s.clock, .diagOverflow)] := rfl
@[simp] theorem overflowDone_returns : (overflowDone s).returns = s.returns := rfl

/-! ### `frameEnd` -/

@[simp] theorem frameEnd_cfg : (frameEnd s).cfg = s.cfg := rfl
@[simp] theorem frameEnd_clock : (frameEnd s).clock = s.clock := rfl
@[simp] theorem frameEnd_rxState : (frameEnd s).rxState = .done := rfl
@[simp] theorem frameEnd_buf : (frameEnd s).buf = s.buf := rfl
@[simp] theorem frameEnd_bufIdx : (frameEnd s).bufIdx = s.bufIdx := rfl
@[simp] theorem frameEnd_prevLevel : (frameEnd s).prevLevel = s.prevLevel := rfl
@[simp] theorem frameEnd_edgeRef : (frameEnd s).edgeRef = s.edgeRef := rfl
@[simp] theorem frameEnd_lastCmd : (frameEnd s).lastCmd = s.lastCmd := rfl
@[simp] theorem frameEnd_handlerSet : (frameEnd s).handlerSet = s.handlerSet := rfl
@[simp] theorem frameEnd_chCapacity : (frameEnd s).chCapacity = s.chCapacity := rfl
@[simp] theorem frameEnd_ch : (frameEnd s).ch = s.ch := rfl
@[simp] theorem frameEnd_handler : (frameEnd s).handler = s.handler := rfl
@[simp] theorem frameEnd_inbox : (frameEnd s).inbox = s.inbox := rfl
@[simp] theorem frameEnd_result : (frameEnd s).result = s.result := rfl
@[simp] theorem frameEnd_trace : (frameEnd s).trace = s.trace := rfl
@[simp] theorem frameEnd_returns : (frameEnd s).returns = s.returns := rfl

/-! ### `noiseAbort` -/

@[simp] theorem noiseAbort_cfg : (noiseAbort s).cfg = s.cfg := rfl
@[simp] theorem noiseAbort_clock : (noiseAbort s).clock = s.clock := rfl
@[simp] theorem noiseAbort_rxState : (noiseAbort s).rxState = .idle := rfl
@[simp] theorem noiseAbort_buf : (noiseAbort s).buf = s.buf := rfl
@[simp] theorem noiseAbort_bufIdx : (noiseAbort s).bufIdx = s.bufIdx := rfl
@[simp] theorem noiseAbort_prevLevel : (noiseAbort s).prevLevel = s.prevLevel := rfl
@[simp] theorem noiseAbort_edgeRef : (noiseAbort s).edgeRef = s.edgeRef := rfl
@[simp] theorem noiseAbort_lastCmd : (noiseAbort s).lastCmd = s.lastCmd := rfl
@[simp] theorem noiseAbort_handlerSet : (noiseAbort s).handlerSet = s.handlerSet := rfl
@[simp] theorem noiseAbort_chCapacity : (noiseAbort s).chCapacity = s.chCapacity := rfl
@[simp] theorem noiseAbort_ch : (noiseAbort s).ch = s.ch := rfl
@[simp] theorem noiseAbort_handler : (noiseAbort s).handler = s.handler := rfl
@[simp] theorem noiseAbort_inbox : (noiseAbort s).inbox = s.inbox := rfl
@[simp] theorem noiseAbort_result : (noiseAbort s).result = s.result := rfl
@[simp] theorem noiseAbort_trace : (noiseAbort s).trace = s.trace := rfl
@[simp] theorem noiseAbort_returns : (noiseAbort s).returns = s.returns := rfl

/-! ### `leaveDone` -/

@[simp] theorem leaveDone_cfg : (leaveDone s).cfg = s.cfg := rfl
@[simp] theorem leaveDone_clock : (leaveDone s).clock = s.clock := rfl
@[simp] theorem leaveDone_rxState : (leaveDone s).rxState = .idle := rfl
@[simp] theorem leaveDone_buf : (leaveDone s).buf = s.buf := rfl
@[simp] theorem leaveDone_bufIdx : (leaveDone s).bufIdx = s.bufIdx := rfl
@[simp] theorem leaveDone_prevLevel : (leaveDone s).prevLevel = s.prevLevel := rfl
@[simp] theorem leaveDone_edgeRef : (leaveDone s).edgeRef = s.edgeRef := rfl
@[simp] theorem leaveDone_lastCmd : (leaveDone s).lastCmd = s.lastCmd := rfl
@[simp] theorem leaveDone_handlerSet : (leaveDone s).handlerSet = s.handlerSet := rfl
@[simp] theorem leaveDone_chCapacity : (leaveDone s).chCapacity = s.chCapacity := rfl
@[simp] theorem leaveDone_ch : (leaveDone s).ch = s.ch := rfl
@[simp] theorem leaveDone_handler : (leaveDone s).handler = s.handler := rfl
@[simp] theorem leaveDone_inbox : (leaveDone s).inbox = s.inbox := rfl
@[simp] theorem leaveDone_result : (leaveDone s).result = s.result := rfl
@[simp] theorem leaveDone_trace : (leaveDone s).trace = s.trace := rfl
@[simp] theorem leaveDone_returns : (leaveDone s).returns = s.returns := rfl

/-! ### `announceCommand` -/

@[simp] theorem announceCommand_cfg (c : Command) : (announceCommand c s).cfg = s.cfg := rfl
@[simp] theorem announceCommand_clock (c : Command) : (announceCommand c s).clock = s.clock := rfl
@[simp] theorem announceCommand_rxState (c : Command) : (announceCommand c s).rxState = s.rxState := rfl
@[simp] theorem announceCommand_buf (c : Command) : (announceCommand c s).buf = s.buf := rfl
@[simp] theorem announceCommand_bufIdx (c : Command) : (announceCommand c s).bufIdx = s.bufIdx := rfl
@[simp] theorem announceCommand_prevLevel (c : Command) : (announceCommand c s).prevLevel = s.prevLevel := rfl
@[simp] theorem announceCommand_edgeRef (c : Command) : (announceCommand c s).edgeRef = s.edgeRef := rfl
@[simp] theorem announceCommand_lastCmd (c : Command) : (announceCommand c s).lastCmd = some c := rfl
@[simp] theorem announceCommand_handlerSet (c : Command) : (announceCommand c s).handlerSet = s.handlerSet := rfl
@[simp] theorem announceCommand_chCapacity (c : Command) : (announceCommand c s).chCapacity = s.chCapacity := rfl
@[simp] theorem announceCommand_ch (c : Command) : (announceCommand c s).ch = s.ch := rfl
@[simp] theorem announceCommand_handler (c : Command) : (announceCommand c s).handler = s.handler := rfl
@[simp] theorem announceCommand_inbox (c : Command) : (announceCommand c s).inbox = s.inbox := rfl
@[simp] theorem announceCommand_result (c : Command) : (announceCommand c s).result = s.result := rfl
@[simp] theorem announceCommand_trace (c : Command) : (announceCommand c s).trace = s.trace ++ [(s.clock, .command c)] := rfl
@[simp] theorem announceCommand_returns (c : Command) : (announceCommand c s).returns = s.returns := rfl

/-! ### `registerHandler` -/

@[simp] theorem registerHandler_cfg (h : Handler) : (registerHandler h s).cfg = s.cfg := rfl
@[simp] theorem registerHandler_clock (h : Handler) : (registerHandler h s).clock = s.clock := rfl
@[simp] theorem registerHandler_rxState (h : Handler) : (registerHandler h s).rxState = s.rxState := rfl
@[simp] theorem registerHandler_buf (h : Handler) : (registerHandler h s).buf = s.buf := rfl
@[simp] theorem registerHandler_bufIdx (h : Handler) : (registerHandler h s).bufIdx = s.bufIdx := rfl
@[simp] theorem registerHandler_prevLevel (h : Handler) : (registerHandler h s).prevLevel = s.prevLevel := rfl
@[simp] theorem registerHandler_edgeRef (h : Handler) : (registerHandler h s).edgeRef = s.edgeRef := rfl
@[simp] theorem registerHandler_lastCmd (h : Handler) : (registerHandler h s).lastCmd = s.lastCmd := rfl
@[simp] theorem registerHandler_handlerSet (h : Handler) : (registerHandler h s).handlerSet = true := rfl
@[simp] theorem registerHandler_chCapacity (h : Handler) : (registerHandler h s).chCapacity = s.chCapacity := rfl
@[simp] theorem registerHandler_ch (h : Handler) : (registerHandler h s).ch = s.ch := rfl
@[simp] theorem registerHandler_handler (h : Handler) : (registerHandler h s).handler = h := rfl
@[simp] theorem registerHandler_inbox (h : Handler) : (registerHandler h s).inbox = s.inbox := rfl
@[simp] theorem registerHandler_result (h : Handler) : (registerHandler h s).result = .nothing := rfl
@[simp] theorem registerHandler_trace (h : Handler) : (registerHandler h s).trace = s.trace := rfl
@[simp] theorem registerHandler_returns (h : Handler) : (registerHandler h s).returns = s.returns := rfl

/-! ### `registerChannel` -/

@[simp] theorem registerChannel_cfg (p : PinId) : (registerChannel p s).cfg = s.cfg := rfl
@[simp] theorem registerChannel_clock (p : PinId) : (registerChannel p s).clock = s.clock := rfl
@[simp] theorem registerChannel_rxState (p : PinId) : (registerChannel p s).rxState = s.rxState := rfl
@[simp] theorem registerChannel_buf (p : PinId) : (registerChannel p s).buf = s.buf := rfl
@[simp] theorem registerChannel_bufIdx (p : PinId) : (registerChannel p s).bufIdx = s.bufIdx := rfl
@[simp] theorem registerChannel_prevLevel (p : PinId) : (registerChannel p s).prevLevel = s.prevLevel := rfl
@[simp] theorem registerChannel_edgeRef (p : PinId) : (registerChannel p s).edgeRef = s.edgeRef := rfl
@[simp] theorem registerChannel_lastCmd (p : PinId) : (registerChannel p s).lastCmd = s.lastCmd := rfl
@[simp] theorem registerChannel_handlerSet (p : PinId) : (registerChannel p s).handlerSet = s.handlerSet := rfl
@[simp] theorem registerChannel_chCapacity (p : PinId) : (registerChannel p s).chCapacity = s.chCapacity := rfl
@[simp] theorem registerChannel_ch (p : PinId) : (registerChannel p s).ch = s.ch ++ [newChannel p s.clock] := rfl
@[simp] theorem registerChannel_handler (p : PinId) : (registerChannel p s).handler = s.handler := rfl
@[simp] theorem registerChannel_inbox (p : PinId) : (registerChannel p s).inbox = s.inbox := rfl
@[simp] theorem registerChannel_result (p : PinId) : (registerChannel p s).result = .okIndex s.ch.length := rfl
@[simp] theorem registerChannel_trace (p : PinId) : (registerChannel p s).trace = s.trace ++ [(s.clock, .gpioMode p .output)] ++ [(s.clock, .gpioWrite p false)] := rfl
@[simp] theorem registerChannel_returns (p : PinId) : (registerChannel p s).returns = s.returns ++ [(s.clock, .okIndex s.ch.length)] := rfl

/-! ### `driveChannel` -/

@[simp] theorem driveChannel_cfg (k : Nat) (c : Channel) (l : Bool) (now : U32) : (driveChannel k c l now s).cfg = s.cfg := rfl
@[simp] theorem driveChannel_clock (k : Nat) (c : Channel) (l : Bool) (now : U32) : (driveChannel k c l now s).clock = s.clock := rfl
@[simp] theorem driveChannel_rxState (k : Nat) (c : Channel) (l : Bool) (now : U32) : (driveChannel k c l now s).rxState = s.rxState := rfl
@[simp] theorem driveChannel_buf (k : Nat) (c : Channel) (l : Bool) (now : U32) : (driveChannel k c l now s).buf = s.buf := rfl
@[simp] theorem driveChannel_bufIdx (k : Nat) (c : Channel) (l : Bool) (now : U32) : (driveChannel k c l now s).bufIdx = s.bufIdx := rfl
@[simp] theorem driveChannel_prevLevel (k : Nat) (c : Channel) (l : Bool) (now : U32) : (driveChannel k c l now s).prevLevel = s.prevLevel := rfl
@[simp] theorem driveChannel_edgeRef (k : Nat) (c : Channel) (l : Bool) (now : U32) : (driveChannel k c l now s).edgeRef = s.edgeRef := rfl
@[simp] theorem driveChannel_lastCmd (k : Nat) (c : Channel) (l : Bool) (now : U32) : (driveChannel k c l now s).lastCmd = s.lastCmd := rfl
@[simp] theorem driveChannel_handlerSet (k : Nat) (c : Channel) (l : Bool) (now : U32) : (driveChannel k c l now s).handlerSet = s.handlerSet := rfl
@[simp] theorem driveChannel_chCapacity (k : Nat) (c : Channel) (l : Bool) (now : U32) : (driveChannel k c l now s).chCapacity = s.chCapacity := rfl
@[simp] theorem driveChannel_ch (k : Nat) (c : Channel) (l : Bool) (now : U32) : (driveChannel k c l now s).ch = s.ch.set k (c.toggled now l) := rfl
@[simp] theorem driveChannel_handler (k : Nat) (c : Channel) (l : Bool) (now : U32) : (driveChannel k c l now s).handler = s.handler := rfl
@[simp] theorem driveChannel_inbox (k : Nat) (c : Channel) (l : Bool) (now : U32) : (driveChannel k c l now s).inbox = s.inbox := rfl
@[simp] theorem driveChannel_result (k : Nat) (c : Channel) (l : Bool) (now : U32) : (driveChannel k c l now s).result = s.result := rfl
@[simp] theorem driveChannel_trace (k : Nat) (c : Channel) (l : Bool) (now : U32) : (driveChannel k c l now s).trace = s.trace ++ [(s.clock, .gpioWrite c.pin l)] := rfl
@[simp] theorem driveChannel_returns (k : Nat) (c : Channel) (l : Bool) (now : U32) : (driveChannel k c l now s).returns = s.returns := rfl

/-! ### `setTargetOp` -/

/-- `set_target` writes the records and the result. -/
theorem setTargetOp_eq (index value : Int) :
    setTargetOp index value s = { s with ch := (setTargetOp index value s).ch, result := .nothing } := by
  unfold setTargetOp; split <;> rfl

@[simp] theorem setTargetOp_cfg (i v : Int) : (setTargetOp i v s).cfg = s.cfg := by rw [setTargetOp_eq]
@[simp] theorem setTargetOp_clock (i v : Int) : (setTargetOp i v s).clock = s.clock := by rw [setTargetOp_eq]
@[simp] theorem setTargetOp_rxState (i v : Int) : (setTargetOp i v s).rxState = s.rxState := by rw [setTargetOp_eq]
@[simp] theorem setTargetOp_buf (i v : Int) : (setTargetOp i v s).buf = s.buf := by rw [setTargetOp_eq]
@[simp] theorem setTargetOp_bufIdx (i v : Int) : (setTargetOp i v s).bufIdx = s.bufIdx := by rw [setTargetOp_eq]
@[simp] theorem setTargetOp_prevLevel (i v : Int) : (setTargetOp i v s).prevLevel = s.prevLevel := by rw [setTargetOp_eq]
@[simp] theorem setTargetOp_edgeRef (i v : Int) : (setTargetOp i v s).edgeRef = s.edgeRef := by rw [setTargetOp_eq]
@[simp] theorem setTargetOp_lastCmd (i v : Int) : (setTargetOp i v s).lastCmd = s.lastCmd := by rw [setTargetOp_eq]
@[simp] theorem setTargetOp_handlerSet (i v : Int) : (setTargetOp i v s).handlerSet = s.handlerSet := by rw [setTargetOp_eq]
@[simp] theorem setTargetOp_chCapacity (i v : Int) : (setTargetOp i v s).chCapacity = s.chCapacity := by rw [setTargetOp_eq]
@[simp] theorem setTargetOp_handler (i v : Int) : (setTargetOp i v s).handler = s.handler := by rw [setTargetOp_eq]
@[simp] theorem setTargetOp_inbox (i v : Int) : (setTargetOp i v s).inbox = s.inbox := by rw [setTargetOp_eq]
@[simp] theorem setTargetOp_result (i v : Int) : (setTargetOp i v s).result = .nothing := by rw [setTargetOp_eq]
@[simp] theorem setTargetOp_trace (i v : Int) : (setTargetOp i v s).trace = s.trace := by rw [setTargetOp_eq]
@[simp] theorem setTargetOp_returns (i v : Int) : (setTargetOp i v s).returns = s.returns := by rw [setTargetOp_eq]

end Sys2Proof.Machine
end

