-- ==== Sys2Proof/Laws/HostOps.lean ====
section
/-! SUPPORT. What the host operations and the handler's window can do. -/

namespace Sys2Proof.Machine

@[simp] theorem andThen_next (s : State) (f : State → Answer) : andThen (.next s) f = f s := rfl
@[simp] theorem andThen_refused (r : Refusal) (f : State → Answer) : andThen (.refused r) f = .refused r := rfl

/-- Where a composition answers a next state, both parts did. -/
theorem andThen_eq_next {o : Answer} {f : State → Answer} {t : State} :
    andThen o f = .next t ↔ ∃ u, o = .next u ∧ f u = .next t := by
  cases o <;> simp [andThen]

/-- Where a composition refuses, one of its parts did. -/
theorem andThen_eq_refused {o : Answer} {f : State → Answer} {r : Refusal} :
    andThen o f = .refused r ↔ o = .refused r ∨ ∃ u, o = .next u ∧ f u = .refused r := by
  cases o <;> simp [andThen]

/-- Everything `configure` can do (R170). -/
theorem configureOp_cases (n : Nat) (s : State) :
    (n = 0 ∧ configureOp n s = .next (s.returnResult .invalidCapacity)) ∨
    (n ≠ 0 ∧ s.chCapacity ≠ 0 ∧ configureOp n s = .refused .secondConfigure) ∨
    (n ≠ 0 ∧ s.chCapacity = 0 ∧ configureOp n s = .next (({ s with chCapacity := n, ch := [] } : State).returnResult .ok)) := by
  by_cases h0 : n = 0
  · simp [h0, configureOp]
  · by_cases h1 : s.chCapacity = 0
    · right; right
      refine ⟨h0, h1, ?_⟩
      simp only [configureOp, h0, h1, if_false, ne_eq, not_true]
    · simp [h0, h1, configureOp]

/-- Everything `add` can do (R171, U6). -/
theorem addOp_cases (p : PinId) (s : State) :
    (s.chCapacity ≤ s.ch.length ∧ addOp p s = .next (s.returnResult .capacityExceeded)) ∨
    (s.ch.length < s.chCapacity ∧ p = s.cfg.irPin ∧ addOp p s = .refused .pinIsIrPin) ∨
    (s.ch.length < s.chCapacity ∧ p ≠ s.cfg.irPin ∧ p ∈ s.ch.map Channel.pin ∧ addOp p s = .refused .pinInUse) ∨
    (s.ch.length < s.chCapacity ∧ p ≠ s.cfg.irPin ∧ p ∉ s.ch.map Channel.pin ∧
      addOp p s = .next (registerChannel p s)) := by
  by_cases h0 : s.chCapacity ≤ s.ch.length
  · exact .inl ⟨h0, by simp [addOp, h0]⟩
  · have h0' := Nat.lt_of_not_le h0
    by_cases h1 : p = s.cfg.irPin
    · exact .inr (.inl ⟨h0', h1, by simp [addOp, h0, h1]⟩)
    · by_cases h2 : p ∈ s.ch.map Channel.pin
      · refine .inr (.inr (.inl ⟨h0', h1, h2, ?_⟩))
        have : s.ch.any (fun c => c.pin == p) = true := by
          obtain ⟨c, hc, hp⟩ := List.mem_map.1 h2
          exact List.any_eq_true.2 ⟨c, hc, by simp [hp]⟩
        simp [addOp, h0, h1, this]
      · refine .inr (.inr (.inr ⟨h0', h1, h2, ?_⟩))
        have : s.ch.any (fun c => c.pin == p) = false := by
          rw [List.any_eq_false]
          intro c hc
          simp only [beq_iff_eq]
          exact fun hp => h2 (List.mem_map.2 ⟨c, hc, hp⟩)
        simp [addOp, h0, h1, this]

/-- What one call of the handler can write: the records, the trace and the results (R46, R129). -/
theorem runCall_frame {op : HandlerOp} {s t : State} (h : runCall op s = .next t) :
    t = { s with ch := t.ch, trace := t.trace, result := t.result, returns := t.returns } := by
  cases op with
  | setTarget i v =>
    simp only [runCall, Host.Outcome.next.injEq] at h
    subst h
    simpa using setTargetOp_eq s i v
  | add p =>
    rcases addOp_cases p s with ⟨-, e⟩ | ⟨-, -, e⟩ | ⟨-, -, -, e⟩ | ⟨-, -, -, e⟩ <;>
      simp only [runCall, e, Host.Outcome.next.injEq, reduceCtorEq] at h <;> subst h <;> rfl
  | forbidden c => simp [runCall] at h

/-- What a handler's calls can write (R46, R129). -/
theorem runCalls_frame {ops : List HandlerOp} {s t : State} (h : runCalls ops s = .next t) :
    t = { s with ch := t.ch, trace := t.trace, result := t.result, returns := t.returns } := by
  induction ops generalizing s with
  | nil => simp only [runCalls, Host.Outcome.next.injEq] at h; subst h; rfl
  | cons op ops ih =>
    obtain ⟨u, hu, ht⟩ := andThen_eq_next.1 h
    have h1 := runCall_frame hu
    have h2 := ih ht
    rw [h1] at h2
    exact h2

theorem andThen_assoc (o : Answer) (f g : State → Answer) :
    andThen (andThen o f) g = andThen o (fun s => andThen (f s) g) := by
  cases o <;> rfl

/-- Calls in a row: the first ones, then the others. -/
theorem runCalls_append (a b : List HandlerOp) (s : State) :
    runCalls (a ++ b) s = andThen (runCalls a s) (runCalls b) := by
  induction a generalizing s with
  | nil => rfl
  | cons op a ih =>
    show andThen (runCall op s) (runCalls (a ++ b)) = andThen (andThen (runCall op s) (runCalls a)) (runCalls b)
    rw [andThen_assoc, funext ih]

/-- What `set_target` leaves of every record: all but the pulse time (R172). -/
theorem setTargetOp_records (i v : Int) (s : State) :
    (setTargetOp i v s).ch.map (fun c => (c.pin, c.level, c.lastTransition)) =
      s.ch.map (fun c => (c.pin, c.level, c.lastTransition)) := by
  unfold setTargetOp
  split
  · rfl
  · apply List.ext_getElem
    · simp [setPulse]
    · intro k h1 h2
      simp only [State.setResult, setPulse, List.getElem_map, List.getElem_modify]
      split <;> rfl

/-- A property of the state that every `set_target` and every accepted `add` keeps is kept by a handler's calls. -/
theorem runCalls_induction {P : State → Prop} (hset : ∀ i v s, P s → P (setTargetOp i v s))
    (hadd : ∀ p s t, P s → addOp p s = .next t → P t) {ops : List HandlerOp} {s t : State}
    (h : runCalls ops s = .next t) (hs : P s) : P t := by
  induction ops generalizing s with
  | nil => simp only [runCalls, Host.Outcome.next.injEq] at h; exact h ▸ hs
  | cons op ops ih =>
    obtain ⟨u, hu, ht⟩ := andThen_eq_next.1 h
    refine ih ht ?_
    cases op with
    | setTarget i v => simp only [runCall, Host.Outcome.next.injEq] at hu; exact hu ▸ hset i v s hs
    | add p => exact hadd p s u hs hu
    | forbidden c => simp [runCall] at hu

/-- `set_target` alone never refuses. -/
theorem runCalls_setTargets {ops : List HandlerOp} {s : State}
    (h : ∀ op ∈ ops, ∃ i v, op = .setTarget i v) : ∃ t, runCalls ops s = .next t := by
  induction ops generalizing s with
  | nil => exact ⟨s, rfl⟩
  | cons op ops ih =>
    obtain ⟨i, v, rfl⟩ := h op (by simp)
    simpa [runCalls, runCall] using ih fun o ho => h o (by simp [ho])

/-- The stored pulse time as a number (R95, R172). -/
theorem pulseOf_toNat (v : Int) : ((pulseOf v).toNat : Int) = max 1000 (min 2000 ((9000 + 50 * v) / 9)) := by
  have e : (pulseOf v).toNat = (max 1000 (min 2000 ((9000 + 50 * v) / 9)) % 65536 : Int).toNat := by
    simp only [pulseOf, pulseMinUs, pulseMaxUs, BitVec.toNat_ofInt]
    norm_num
  rw [e]
  omega

/-- The stored pulse time is in the safe range, whatever the value (R33(a), R178). -/
theorem pulseOf_range (v : Int) : pulseMinUs ≤ (pulseOf v).toNat ∧ (pulseOf v).toNat ≤ pulseMaxUs := by
  have := pulseOf_toNat v
  unfold pulseMinUs pulseMaxUs
  omega

end Sys2Proof.Machine
end

