-- ==== Sys2Proof/Laws/Decoder.lean ====
section
/-! SUPPORT. What the decoder's arms and the pass can do. -/

namespace Sys2Proof.Machine

/-- Everything the `Receiving` arm can do (R122). -/
theorem receivingArm_cases (now : U32) (level : Bool) (s : State) :
    (level ≠ s.prevLevel ∧ s.bufIdx < s.cfg.bufCapacity ∧ receivingArm now level s = appendEdge now s) ∨
    (level ≠ s.prevLevel ∧ s.cfg.bufCapacity ≤ s.bufIdx ∧ receivingArm now level s = overflowDone s) ∨
    (level = s.prevLevel ∧ level = true ∧ frameGapUs < (s.duration now).toNat ∧
      receivingArm now level s = frameEnd s) ∨
    (level = s.prevLevel ∧ level = false ∧ markAbortUs s.cfg < (s.duration now).toNat ∧
      receivingArm now level s = noiseAbort s) ∨
    (level = s.prevLevel ∧ (s.duration now).toNat ≤ (if level then frameGapUs else markAbortUs s.cfg) ∧
      receivingArm now level s = s) := by
  unfold receivingArm State.gapExceeded State.markExceeded
  by_cases he : level = s.prevLevel
  · cases level
    · by_cases hm : markAbortUs s.cfg < (s.duration now).toNat
      · simp [← he, hm]
      · simp [← he, hm, Nat.le_of_not_lt hm]
    · by_cases hg : frameGapUs < (s.duration now).toNat
      · simp [← he, hg]
      · simp [← he, hg, Nat.le_of_not_lt hg]
  · by_cases hb : s.bufIdx < s.cfg.bufCapacity
    · simp [he, hb]
    · simp [he, hb, Nat.le_of_not_lt hb]

/-- Everything the `Done` arm can do where it answers a next state (R127, R203, R204): nothing known, or a known
command announced and then, where a handler is registered, the handler's calls. -/
theorem doneArm_next {s t : State} (h : doneArm s = .next t) :
    (decodeNec s.cfg s.entries s.lastCmd = none ∧ t = leaveDone s) ∨
    (∃ c, decodeNec s.cfg s.entries s.lastCmd = some c ∧ s.handlerSet = false ∧
      t = leaveDone (announceCommand c s)) ∨
    (∃ c u, decodeNec s.cfg s.entries s.lastCmd = some c ∧ s.handlerSet = true ∧
      runCalls (handlerCalls s.handler c) (announceCommand c s) = .next u ∧ t = leaveDone u) := by
  unfold doneArm at h
  cases hd : decodeNec s.cfg s.entries s.lastCmd with
  | none => simp only [hd, Host.Outcome.next.injEq] at h; exact .inl ⟨rfl, h.symm⟩
  | some c =>
    simp only [hd] at h
    obtain ⟨u, hu, ht⟩ := andThen_eq_next.1 h
    simp only [Host.Outcome.next.injEq] at ht
    cases hs : s.handlerSet with
    | false =>
      simp only [announceCommand_handlerSet, hs, Bool.false_eq_true, if_false, Host.Outcome.next.injEq] at hu
      exact .inr (.inl ⟨c, rfl, rfl, by rw [← ht, ← hu]⟩)
    | true =>
      simp only [announceCommand_handlerSet, hs, if_true, handlerWindow, announceCommand_handler] at hu
      exact .inr (.inr ⟨c, u, rfl, rfl, hu, ht.symm⟩)

/-- Everything a decoder update can do where it answers a next state (R120). -/
theorem decoderUpdate_next {now : U32} {level : Bool} {s t : State} (h : decoderUpdate now level s = .next t) :
    (s.rxState = .idle ∧ t = (idleArm now level s).sample level) ∨
    (s.rxState = .receiving ∧ t = (receivingArm now level s).sample level) ∨
    (s.rxState = .done ∧ ∃ u, doneArm s = .next u ∧ t = u.sample level) := by
  unfold decoderUpdate at h
  cases hr : s.rxState with
  | idle => simp only [hr, Host.Outcome.next.injEq] at h; exact .inl ⟨rfl, h.symm⟩
  | receiving => simp only [hr, Host.Outcome.next.injEq] at h; exact .inr (.inl ⟨rfl, h.symm⟩)
  | done =>
    simp only [hr] at h
    obtain ⟨u, hu, ht⟩ := andThen_eq_next.1 h
    simp only [Host.Outcome.next.injEq] at ht
    exact .inr (.inr ⟨rfl, u, hu, ht.symm⟩)

/-- A pass that answers a next state: clock, decoder, scheduler (R110). -/
theorem tickPass_next {irIn : Bool} {missed : Nat} {s t : State} (h : tickPass irIn missed s = .next t) :
    ∃ u, decoderUpdate (s.advanceClock (missed + 1)).clock irIn (s.advanceClock (missed + 1)) = .next u ∧
      t = schedulerUpdate (s.advanceClock (missed + 1)).clock u := by
  unfold tickPass at h
  obtain ⟨u, hu, ht⟩ := andThen_eq_next.1 h
  simp only [Host.Outcome.next.injEq] at ht
  exact ⟨u, hu, ht.symm⟩

/-- What a decoder update never writes (R46): the clock, the configuration, the capacity, the handler and the inputs
pending. -/
theorem decoderUpdate_frame {now : U32} {level : Bool} {s t : State} (h : decoderUpdate now level s = .next t) :
    t.cfg = s.cfg ∧ t.clock = s.clock ∧ t.chCapacity = s.chCapacity ∧ t.handlerSet = s.handlerSet ∧
      t.handler = s.handler ∧ t.inbox = s.inbox ∧ t.prevLevel = level := by
  rcases decoderUpdate_next h with ⟨-, rfl⟩ | ⟨-, rfl⟩ | ⟨-, u, hu, rfl⟩
  · unfold idleArm; split <;> simp
  · rcases receivingArm_cases now level s with ⟨-, -, e⟩ | ⟨-, -, e⟩ | ⟨-, -, -, e⟩ | ⟨-, -, -, e⟩ | ⟨-, -, e⟩ <;> simp [e]
  · rcases doneArm_next hu with ⟨-, rfl⟩ | ⟨c, -, -, rfl⟩ | ⟨c, v, -, -, hv, rfl⟩
    · simp
    · simp
    · rw [runCalls_frame hv]; simp

end Sys2Proof.Machine
end

