-- ==== Sys2Proof/Laws/Memory.lean ====
section
/-! SUPPORT. The timing buffer: a read after a write, and the canonical form. -/

namespace Sys2Proof.Machine

theorem Memory.read_write_same (m : Memory) (k : Nat) (v : U32) : (m.write k v).read k = some v := by
  induction m with
  | nil => simp [Memory.write, Memory.read]
  | cons e m ih =>
    obtain ⟨j, w⟩ := e
    unfold Memory.write
    split
    · simp [Memory.read]
    · split
      · simp [Memory.read]
      · rename_i h1 h2
        simp [Memory.read, Ne.symm h2, ih]

theorem Memory.read_write_other (m : Memory) (j k : Nat) (v : U32) (h : k ≠ j) :
    (m.write j v).read k = m.read k := by
  induction m with
  | nil => simp [Memory.write, Memory.read, Ne.symm h]
  | cons e m ih =>
    obtain ⟨i, w⟩ := e
    unfold Memory.write
    split
    · simp [Memory.read, Ne.symm h]
    · split
      · rename_i h1 h2
        subst h2
        simp [Memory.read, Ne.symm h]
      · simp [Memory.read, ih]

/-- The one law of a write, both cases. -/
theorem Memory.read_write (m : Memory) (j k : Nat) (v : U32) :
    (m.write j v).read k = if k = j then some v else m.read k := by
  split
  · next h => subst h; exact m.read_write_same _ v
  · next h => exact m.read_write_other j k v h

theorem Memory.mem_write {m : Memory} {k : Nat} {v : U32} {e : Nat × U32} (h : e ∈ m.write k v) :
    e = (k, v) ∨ e ∈ m := by
  induction m with
  | nil => simpa [Memory.write] using h
  | cons d m ih =>
    obtain ⟨j, w⟩ := d
    unfold Memory.write at h
    split at h
    · simpa using h
    · split at h
      · simp only [List.mem_cons] at h ⊢
        tauto
      · simp only [List.mem_cons] at h ⊢
        rcases h with h | h
        · exact .inr (.inl h)
        · rcases ih h with h | h
          · exact .inl h
          · exact .inr (.inr h)

/-- A write keeps the canonical form. -/
theorem Memory.write_wf (m : Memory) (k : Nat) (v : U32) (h : Memory.wf m) : Memory.wf (m.write k v) := by
  induction m with
  | nil => simp [Memory.write]
  | cons e m ih =>
    obtain ⟨j, w⟩ := e
    have hm : ∀ e ∈ m, j < e.1 := fun e he => List.rel_of_pairwise_cons h he
    have ht : Memory.wf m := List.Pairwise.of_cons h
    unfold Memory.write
    split
    · next hk =>
      refine List.Pairwise.cons (fun e he => ?_) h
      rcases List.mem_cons.1 he with rfl | he
      · exact hk
      · exact Nat.lt_trans hk (hm e he)
    · split
      · next hk => subst hk; exact List.Pairwise.cons hm ht
      · next h1 h2 =>
        refine List.Pairwise.cons (fun e he => ?_) (ih ht)
        rcases Memory.mem_write he with rfl | he
        · exact Nat.lt_of_le_of_ne (Nat.le_of_not_lt h1) (Ne.symm h2)
        · exact hm e he

theorem reset_buf_wf : Memory.wf State.reset.buf := List.Pairwise.nil

end Sys2Proof.Machine
end

