-- ==== Sys2Proof/Laws/Scheduler.lean ====
section
/-! SUPPORT. What one scheduler update does: every record takes its turn, and nothing else changes but the trace. -/

namespace Sys2Proof.Machine

@[simp] theorem turned_pin (now : U32) (c : Channel) : (turned now c).pin = c.pin := by
  unfold turned; split <;> [rfl; (split <;> rfl)]

@[simp] theorem turned_pulseTime (now : U32) (c : Channel) : (turned now c).pulseTime = c.pulseTime := by
  unfold turned; split <;> [rfl; (split <;> rfl)]

/-- A record that changes its level takes the time of the update; one that does not is untouched. -/
theorem turned_cases (now : U32) (c : Channel) :
    (turned now c = c ∧ (turned now c).level = c.level) ∨
    (turned now c = c.toggled now (!c.level) ∧ (turned now c).level ≠ c.level) := by
  unfold turned Channel.toggled
  split
  · next h => right; simp [h.1]
  · split
    · next h => right; simp [h.1]
    · left; simp

/-- The time since a transition at a clock advanced by less than what is left to a wrap (R115). -/
theorem elapsed_advance {clock ref : U32} {d : Nat} (h : (clock - ref).toNat + d < 2 ^ 32) :
    (clock + BitVec.ofNat 32 d - ref).toNat = (clock - ref).toNat + d := by
  have h1 := clock.isLt
  have h2 := ref.isLt
  rw [BitVec.toNat_sub] at h
  rw [BitVec.toNat_sub, BitVec.toNat_add, BitVec.toNat_ofNat, BitVec.toNat_sub]
  omega

/-- After its turn a record of a pulse time in range is within the servo frame, and the time since its transition is 0 or
what it was (R115, R173, R174). -/
theorem turned_elapsed {c : Channel} (now : U32) (h : c.pulseTime.toNat ≤ pwmPeriodUs) :
    (turned now c).elapsed now ≤ pwmPeriodUs ∧
      ((turned now c).elapsed now = 0 ∨ (turned now c).elapsed now = c.elapsed now) := by
  unfold turned
  split
  · simp [Channel.elapsed]
  · next h1 =>
    split
    · simp [Channel.elapsed]
    · next h2 =>
      refine ⟨?_, .inr rfl⟩
      unfold Channel.elapsed
      cases hl : c.level
      · have := Nat.le_of_not_lt (fun hlt => h2 ⟨hl, hlt⟩)
        omega
      · have := Nat.le_of_not_lt (fun hlt => h1 ⟨hl, hlt⟩)
        omega

/-- The turn of a record, in terms of what the record becomes. -/
theorem channelTurn_eq {s : State} {k : Nat} {c : Channel} (now : U32) (h : s.ch[k]? = some c) :
    channelTurn k now s =
      if (turned now c).level = c.level then s else driveChannel k c (turned now c).level now s := by
  unfold channelTurn fallArm riseArm
  simp only [h]
  unfold Channel.fallDue Channel.riseDue Channel.elapsed turned
  cases hl : c.level <;> simp
  · split <;> simp_all
  · split <;> simp_all

/-- One turn in the middle of the table: the records before it and after it stay. -/
theorem channelTurn_append {s : State} {pre suf : List Channel} {c : Channel} (now : U32)
    (h : s.ch = pre ++ c :: suf) :
    channelTurn pre.length now s =
      { s with
        ch := pre ++ turned now c :: suf
        trace := s.trace ++ (turnEvents now [c]).map (fun e => (s.clock, e)) } := by
  have hk : s.ch[pre.length]? = some c := by simp [h]
  rw [channelTurn_eq now hk]
  rcases turned_cases now c with ⟨e, hl⟩ | ⟨e, hl⟩
  · rw [if_pos hl]
    simp only [turnEvents, if_true, List.map_nil, List.append_nil, e, ← h]
  · rw [if_neg hl]
    simp only [turnEvents, hl, if_false, List.map_cons, List.map_nil, driveChannel, State.emit, h,
      List.set_append_right _ _ (Nat.le_refl _), Nat.sub_self, List.set_cons_zero]
    rw [e]
    rfl

theorem turnEvents_cons (now : U32) (c : Channel) (cs : List Channel) :
    turnEvents now (c :: cs) = turnEvents now [c] ++ turnEvents now cs := by
  simp only [turnEvents]
  split <;> rfl

theorem channelTurns_append (now : U32) (suf : List Channel) (pre : List Channel) (s : State)
    (h : s.ch = pre ++ suf) :
    channelTurns suf.length pre.length now s =
      { s with
        ch := pre ++ suf.map (turned now)
        trace := s.trace ++ (turnEvents now suf).map (fun e => (s.clock, e)) } := by
  induction suf generalizing pre s with
  | nil =>
    simp only [List.append_nil] at h
    simp [channelTurns, turnEvents, ← h]
  | cons c suf ih =>
    have hs := channelTurn_append now h
    rw [List.length_cons, channelTurns, hs]
    have := ih (pre ++ [turned now c])
      { s with
        ch := pre ++ turned now c :: suf
        trace := s.trace ++ (turnEvents now [c]).map (fun e => (s.clock, e)) } (by simp)
    rw [List.length_append, List.length_singleton] at this
    rw [this, turnEvents_cons now c suf]
    simp

/-- Everything a scheduler update does (R175): every record takes its turn, the writes are in ascending order. -/
theorem schedulerUpdate_eq (now : U32) (s : State) :
    schedulerUpdate now s =
      { s with
        ch := s.ch.map (turned now)
        trace := s.trace ++ (turnEvents now s.ch).map (fun e => (s.clock, e)) } := by
  simpa [schedulerUpdate] using channelTurns_append now s.ch [] s rfl

/-! ### `schedulerUpdate`, field by field -/

@[simp] theorem schedulerUpdate_cfg (now : U32) (s : State) : (schedulerUpdate now s).cfg = s.cfg := by
  rw [schedulerUpdate_eq]
@[simp] theorem schedulerUpdate_clock (now : U32) (s : State) : (schedulerUpdate now s).clock = s.clock := by
  rw [schedulerUpdate_eq]
@[simp] theorem schedulerUpdate_rxState (now : U32) (s : State) : (schedulerUpdate now s).rxState = s.rxState := by
  rw [schedulerUpdate_eq]
@[simp] theorem schedulerUpdate_buf (now : U32) (s : State) : (schedulerUpdate now s).buf = s.buf := by
  rw [schedulerUpdate_eq]
@[simp] theorem schedulerUpdate_bufIdx (now : U32) (s : State) : (schedulerUpdate now s).bufIdx = s.bufIdx := by
  rw [schedulerUpdate_eq]
@[simp] theorem schedulerUpdate_prevLevel (now : U32) (s : State) : (schedulerUpdate now s).prevLevel = s.prevLevel := by
  rw [schedulerUpdate_eq]
@[simp] theorem schedulerUpdate_edgeRef (now : U32) (s : State) : (schedulerUpdate now s).edgeRef = s.edgeRef := by
  rw [schedulerUpdate_eq]
@[simp] theorem schedulerUpdate_lastCmd (now : U32) (s : State) : (schedulerUpdate now s).lastCmd = s.lastCmd := by
  rw [schedulerUpdate_eq]
@[simp] theorem schedulerUpdate_handlerSet (now : U32) (s : State) : (schedulerUpdate now s).handlerSet = s.handlerSet := by
  rw [schedulerUpdate_eq]
@[simp] theorem schedulerUpdate_chCapacity (now : U32) (s : State) : (schedulerUpdate now s).chCapacity = s.chCapacity := by
  rw [schedulerUpdate_eq]
@[simp] theorem schedulerUpdate_handler (now : U32) (s : State) : (schedulerUpdate now s).handler = s.handler := by
  rw [schedulerUpdate_eq]
@[simp] theorem schedulerUpdate_inbox (now : U32) (s : State) : (schedulerUpdate now s).inbox = s.inbox := by
  rw [schedulerUpdate_eq]
@[simp] theorem schedulerUpdate_result (now : U32) (s : State) : (schedulerUpdate now s).result = s.result := by
  rw [schedulerUpdate_eq]
@[simp] theorem schedulerUpdate_returns (now : U32) (s : State) : (schedulerUpdate now s).returns = s.returns := by
  rw [schedulerUpdate_eq]
@[simp] theorem schedulerUpdate_ch (now : U32) (s : State) : (schedulerUpdate now s).ch = s.ch.map (turned now) := by
  rw [schedulerUpdate_eq]

end Sys2Proof.Machine
end

