-- ==== Sys2Proof/Laws/Step.lean ====
section
/-! SUPPORT. What a step can do: the one inversion lemma of `step`, and that no stimulus decodes to a part of a pass. -/

namespace Sys2Proof.Machine

/-- An operation, a payload, an entry or a frame never decodes to an `ARM` or `FN` row. -/
theorem decode_not_internal {cfg : Config} {st : Stimulus} {i : Instr} (h : decode cfg st = .instr i) :
    i.internal = false := by
  cases st with
  | rst => simp [decode] at h
  | op r =>
    simp only [decode, decodeOp] at h
    split at h <;> simp only [Decoded.instr.injEq, reduceCtorEq] at h <;> subst h <;> rfl
  | payload v =>
    simp only [decode, decodePayloadWord, commandRow, Decoded.instr.injEq] at h
    split at h <;> subst h <;> rfl
  | entry k d =>
    simp only [decode, decodeEntry] at h
    split_ifs at h <;> cases h <;> rfl
  | frame es =>
    simp only [decode, decodeFrame] at h
    split_ifs at h <;> cases h <;> rfl

/-- A `TICK` comes from the operation port with `op_code` 0 and carries its pin and its missed fires (R98). -/
theorem decode_tick {cfg : Config} {st : Stimulus} {irIn : Bool} {missed : Nat}
    (h : decode cfg st = .instr (.tick irIn missed)) :
    ∃ r, st = .op r ∧ r.opCode = 0#3 ∧ r.irIn = irIn ∧ r.missed = missed := by
  cases st with
  | rst => simp [decode] at h
  | op r =>
    simp only [decode, decodeOp] at h
    split at h <;> simp only [Decoded.instr.injEq, Instr.tick.injEq, reduceCtorEq] at h
    next hz => exact ⟨r, rfl, BitVec.eq_of_toNat_eq hz, h.1, h.2⟩
  | payload v =>
    simp only [decode, decodePayloadWord, commandRow, Decoded.instr.injEq] at h
    split at h <;> cases h
  | entry k d =>
    simp only [decode, decodeEntry] at h
    split_ifs at h <;> cases h
  | frame es =>
    simp only [decode, decodeFrame] at h
    split_ifs at h <;> cases h

/-- What executing a row that returns a value and changes nothing else leaves. -/
theorem exec_evaluates {i : Instr} {s t : State} (hi : i.internal = false) (h : exec i s = .next t) :
    (∃ r, t = s.setResult r) ∨
    (∃ irIn missed, i = .tick irIn missed ∧ tickPass irIn missed s = .next t) ∨
    (∃ n, i = .configure n ∧ configureOp n s = .next t) ∨
    (∃ p, i = .add p ∧ addOp p s = .next t) ∨
    (∃ k v, i = .setTarget k v ∧ t = setTargetOp k v s) ∨
    (∃ g, i = .onReceive g ∧ t = registerHandler g s) := by
  cases i
  case tick a b => exact .inr (.inl ⟨a, b, rfl, h⟩)
  case configure n => exact .inr (.inr (.inl ⟨n, rfl, h⟩))
  case add p => exact .inr (.inr (.inr (.inl ⟨p, rfl, h⟩)))
  case setTarget k v =>
    exact .inr (.inr (.inr (.inr (.inl ⟨k, v, rfl, by simpa [exec, execSetTarget] using h.symm⟩))))
  case onReceive g =>
    exact .inr (.inr (.inr (.inr (.inr ⟨g, rfl, by simpa [exec, execOnReceive] using h.symm⟩))))
  all_goals first
    | exact .inl ⟨_, (Host.Outcome.next.inj h).symm⟩
    | cases hi

/-- Everything a step can do where it answers a next state (R114): wait, take a reset, drop a stimulus that stands for
no row, return a value, or run one operation. -/
theorem step_cases {s t : State} (h : step s = .next t) :
    s.cfg.legal = true ∧
    ((s.inbox = [] ∧ t = s) ∨
      ∃ st rest, s.inbox = st :: rest ∧
        (t = takeReset { s with inbox := rest } ∨ t = { s with inbox := rest } ∨
          (∃ r, t = ({ s with inbox := rest } : State).setResult r) ∨
          (∃ r, st = .op r ∧ r.opCode = 0#3 ∧ tickPass r.irIn r.missed { s with inbox := rest } = .next t) ∨
          (∃ n, configureOp n { s with inbox := rest } = .next t) ∨
          (∃ p, addOp p { s with inbox := rest } = .next t) ∨
          (∃ k v, t = setTargetOp k v { s with inbox := rest }) ∨
          (∃ g, t = registerHandler g { s with inbox := rest }))) := by
  unfold step at h
  split at h
  case isFalse => simp at h
  case isTrue hl =>
    refine ⟨hl, ?_⟩
    unfold nextStimulus at h
    cases hin : s.inbox with
    | nil => simp only [hin, Host.Outcome.next.injEq] at h; exact .inl ⟨rfl, h.symm⟩
    | cons st rest =>
      refine .inr ⟨st, rest, rfl, ?_⟩
      simp only [hin] at h
      cases hd : decode s.cfg st with
      | reset => simp only [hd, Host.Outcome.next.injEq] at h; exact .inl h.symm
      | rejected why =>
        simp only [hd, Host.Outcome.next.injEq] at h
        cases why with
        | noOperation => exact .inr (.inl h.symm)
        | noSymbol => exact .inr (.inr (.inl ⟨_, h.symm⟩))
        | noFrame => exact .inr (.inr (.inl ⟨_, h.symm⟩))
      | instr i =>
        simp only [hd] at h
        rcases exec_evaluates (decode_not_internal hd) h with h | ⟨a, b, hi, h⟩ | ⟨n, -, h⟩ | ⟨p, -, h⟩ | ⟨k, v, -, h⟩ | ⟨g, -, h⟩
        · exact .inr (.inr (.inl h))
        · obtain ⟨r, hst, h0, rfl, rfl⟩ := decode_tick (hi ▸ hd)
          exact .inr (.inr (.inr (.inl ⟨r, hst, h0, h⟩)))
        · exact .inr (.inr (.inr (.inr (.inl ⟨n, h⟩))))
        · exact .inr (.inr (.inr (.inr (.inr (.inl ⟨p, h⟩)))))
        · exact .inr (.inr (.inr (.inr (.inr (.inr (.inl ⟨k, v, h⟩))))))
        · exact .inr (.inr (.inr (.inr (.inr (.inr (.inr ⟨g, h⟩))))))

end Sys2Proof.Machine
end

