-- ==== Sys2Proof/Laws/Invariant.lean ====
section
/-! SUPPORT. The invariant `Inv` under the shared operations, one lemma each, and the level of a pin as a function of the
trace. -/

namespace Sys2Proof.Machine


/-- The last write in a longer trace. -/
theorem lastWrite_append (p : PinId) (a b : List (U32 × Event)) :
    lastWrite p (a ++ b) = (lastWrite p b).or (lastWrite p a) := by
  induction a with
  | nil => simp [lastWrite]
  | cons e a ih =>
    obtain ⟨t, e⟩ := e
    cases e <;> simp only [List.cons_append, lastWrite, ih]
    cases lastWrite p b <;> simp

/-- Fields the invariant does not read. -/
theorem Inv.congr {s t : State} (h : Inv s) (h1 : t.cfg = s.cfg) (h2 : t.clock = s.clock) (h3 : t.rxState = s.rxState)
    (h4 : t.buf = s.buf) (h5 : t.bufIdx = s.bufIdx) (h6 : t.prevLevel = s.prevLevel) (h7 : t.edgeRef = s.edgeRef)
    (h8 : t.lastCmd = s.lastCmd) (h9 : t.chCapacity = s.chCapacity) (h10 : t.ch = s.ch) (h11 : t.trace = s.trace) :
    Inv t := by
  obtain ⟨a1, a2, a3, a4, a5, a6, a7, a8, a9, a10, a11, a12, a13⟩ := h
  constructor <;> simp_all [State.duration, State.pinLevel]

/-- `set_target` keeps the invariant: the pulse time is clamped. -/
theorem inv_setTargetOp {s : State} (h : Inv s) (i v : Int) : Inv (setTargetOp i v s) := by
  obtain ⟨a1, a2, a3, a4, a5, a6, a7, a8, a9, a10, a11, a12, a13⟩ := h
  unfold setTargetOp
  split
  · constructor <;> assumption
  · have key : ∀ c ∈ setPulse s.ch i.toNat (pulseOf v), ∃ d ∈ s.ch, c = d ∨ c = {d with pulseTime := pulseOf v} := by
      intro c hc
      unfold setPulse at hc
      obtain ⟨k, hk, hc⟩ := List.mem_iff_getElem.1 hc
      rw [List.getElem_modify] at hc
      split at hc
      · exact ⟨_, List.getElem_mem _, .inr hc.symm⟩
      · exact ⟨_, List.getElem_mem _, .inl hc.symm⟩
    have hp : (setPulse s.ch i.toNat (pulseOf v)).map Channel.pin = s.ch.map Channel.pin := by
      unfold setPulse
      apply List.ext_getElem
      · simp
      · intro k h1 h2
        simp [List.getElem_modify]
        split <;> rfl
    have hl : (setPulse s.ch i.toNat (pulseOf v)).length = s.ch.length := by simp [setPulse]
    constructor
    · exact a1
    · exact a2
    · exact a3
    · exact a4
    · exact a5
    · simpa [hl] using a6
    · intro c hc
      obtain ⟨d, hd, rfl | rfl⟩ := key c hc
      · exact a7 _ hd
      · exact pulseOf_range v
    · show ((setPulse s.ch i.toNat (pulseOf v)).map Channel.pin).Nodup
      rw [hp]; exact a8
    · intro c hc
      obtain ⟨d, hd, rfl | rfl⟩ := key c hc
      · exact a9 c hd
      · exact a9 d hd
    · intro c hc
      obtain ⟨d, hd, rfl | rfl⟩ := key c hc
      · exact a10 c hd
      · exact a10 d hd
    · exact a11
    · exact a12
    · exact a13

/-- An `add` that answers keeps the invariant: the pin is new and driven low. -/
theorem inv_addOp {s t : State} (h : Inv s) {p : PinId} (ht : addOp p s = .next t) : Inv t := by
  rcases addOp_cases p s with ⟨-, e⟩ | ⟨-, -, e⟩ | ⟨-, -, -, e⟩ | ⟨hc, hi, hn, e⟩
  · rw [e] at ht; cases ht; exact h.congr rfl rfl rfl rfl rfl rfl rfl rfl rfl rfl rfl
  · rw [e] at ht; cases ht
  · rw [e] at ht; cases ht
  · rw [e] at ht; cases ht
    obtain ⟨a1, a2, a3, a4, a5, a6, a7, a8, a9, a10, a11, a12, a13⟩ := h
    constructor
    · exact a1
    · exact a2
    · exact a3
    · exact a4
    · exact a5
    · show (s.ch ++ [_]).length ≤ s.chCapacity
      simp; omega
    · intro c hc'
      rcases List.mem_append.1 hc' with hc' | hc'
      · exact a7 c hc'
      · rw [List.mem_singleton.1 hc']; show pulseMinUs ≤ (1500#16).toNat ∧ (1500#16).toNat ≤ pulseMaxUs; decide
    · show ((s.ch ++ [newChannel p s.clock]).map Channel.pin).Nodup
      rw [List.map_append, List.nodup_append]
      refine ⟨a8, by simp, ?_⟩
      intro a ha b hb
      simp [newChannel] at hb
      subst hb
      intro hab; subst hab; exact hn ha
    · intro c hc'
      rcases List.mem_append.1 hc' with hc' | hc'
      · exact a9 c hc'
      · rw [List.mem_singleton.1 hc']; exact hi
    · intro c hc'
      show lastWrite c.pin ((s.trace ++ [_]) ++ [_]) = _
      rw [lastWrite_append, lastWrite_append]
      rcases List.mem_append.1 hc' with hc' | hc'
      · have : c.pin ≠ p := fun e => hn (e ▸ List.mem_map.2 ⟨c, hc', rfl⟩)
        simp [lastWrite, Ne.symm this]
        exact a10 c hc'
      · rw [List.mem_singleton.1 hc']; simp [lastWrite, newChannel]
    · exact a11
    · exact a12
    · exact a13

/-- The last write to a pin in the events of one scheduler update. -/
theorem lastWrite_turnEvents (now clk : U32) (p : PinId) (l : List Channel) (hd : (l.map Channel.pin).Nodup) :
    (∀ c ∈ l, c.pin = p → lastWrite p ((turnEvents now l).map (fun e => (clk, e))) =
      if (turned now c).level = c.level then none else some (turned now c).level) ∧
    ((∀ c ∈ l, c.pin ≠ p) → lastWrite p ((turnEvents now l).map (fun e => (clk, e))) = none) := by
  induction l with
  | nil => simp [turnEvents, lastWrite]
  | cons c l ih =>
    simp only [List.map_cons, List.nodup_cons] at hd
    have ih := ih hd.2
    constructor
    · intro d hd' hp
      rcases List.mem_cons.1 hd' with rfl | hm
      · have hno : ∀ e ∈ l, e.pin ≠ p := fun e he hep => hd.1 (List.mem_map.2 ⟨e, he, hep.trans hp.symm⟩)
        unfold turnEvents
        split
        · rw [ih.2 hno]
        · simp only [List.map_cons, lastWrite, ih.2 hno]
          simp [hp]
      · have hcp : c.pin ≠ p := fun e => hd.1 (List.mem_map.2 ⟨d, hm, hp.trans e.symm⟩)
        have := ih.1 d hm hp
        unfold turnEvents
        split
        · exact this
        · simp only [List.map_cons, lastWrite, this]
          by_cases hl : (turned now d).level = d.level
          · simp [hl, hcp]
          · simp [hl]
    · intro hno
      have := ih.2 (fun e he => hno e (List.mem_cons_of_mem _ he))
      have hcp := hno c (by simp)
      unfold turnEvents
      split
      · exact this
      · simp [lastWrite, this, hcp]

/-- The scheduler update keeps the invariant: every change of level is written to its pin. -/
theorem inv_schedulerUpdate {s : State} (h : Inv s) (now : U32) : Inv (schedulerUpdate now s) := by
  rw [schedulerUpdate_eq]
  obtain ⟨a1, a2, a3, a4, a5, a6, a7, a8, a9, a10, a11, a12, a13⟩ := h
  constructor
  · exact a1
  · exact a2
  · exact a3
  · exact a4
  · exact a5
  · simpa using a6
  · intro c hc; obtain ⟨d, hd, rfl⟩ := List.mem_map.1 hc; simpa using a7 d hd
  · have : (s.ch.map (turned now)).map Channel.pin = s.ch.map Channel.pin := by simp
    simpa [this] using a8
  · intro c hc; obtain ⟨d, hd, rfl⟩ := List.mem_map.1 hc; simpa using a9 d hd
  · intro c hc; obtain ⟨d, hd, rfl⟩ := List.mem_map.1 hc
    show lastWrite _ (s.trace ++ _) = _
    rw [lastWrite_append, (lastWrite_turnEvents now s.clock _ s.ch a8).1 d hd (by simp)]
    have := a10 d hd
    unfold State.pinLevel at this
    split
    · next e => simp [this, e]
    · simp
  · exact a11
  · exact a12
  · exact a13

/-- Decode answers the cached command or one the table recognizes. -/
theorem decodeNec_known {cfg : Config} {es : List U32} {last : Option Command} {c : Command}
    (h : decodeNec cfg es last = some c) : last = some c ∨ cfg.cmdTable.contains c = true := by
  unfold decodeNec at h
  split_ifs at h
  · exact .inl h
  · split at h
    · cases h
    · unfold decodePayload cmdLookup at h
      split_ifs at h
      simp at h; subst h; exact .inr (by assumption)

/-- Return to `Idle` keeps the invariant. -/
theorem inv_leaveDone {s : State} (h : Inv s) : Inv (leaveDone s) := by
  obtain ⟨a1, a2, a3, a4, a5, a6, a7, a8, a9, a10, a11, a12, a13⟩ := h
  constructor <;> first | assumption | simp [leaveDone]

/-- The decoder update at the current clock restores the invariant, of which only the bound on the running duration may
have been lost to the clock's advance. -/
theorem inv_decoderUpdate {s t : State} {l : Bool} (h : Inv (leaveDone s))
    (hp : s.rxState = .receiving → (s.prevLevel = false ↔ s.bufIdx % 2 = 0))
    (ht : decoderUpdate s.clock l s = .next t) : Inv t := by
  obtain ⟨a1, a2, a3, a4, a5, a6, a7, a8, a9, a10, a11, a12, a13⟩ := h
  have a10 : ∀ c ∈ s.ch, lastWrite c.pin s.trace = some c.level := a10
  rcases decoderUpdate_next ht with ⟨hr, rfl⟩ | ⟨hr, rfl⟩ | ⟨hr, u, hu, rfl⟩
  · unfold idleArm
    split
    · next hh =>
      constructor <;> first | assumption | skip
      · simp [startFrame]
      · intro k hk; simp [startFrame] at hk
      · simp [startFrame, hh]
      · simp [startFrame, State.duration]
    · constructor <;> first | assumption | simp [hr]
  · have hp := hp hr
    rcases receivingArm_cases s.clock l s with ⟨h1, h2, e⟩ | ⟨-, -, e⟩ | ⟨-, -, -, e⟩ | ⟨-, -, -, e⟩ | ⟨h1, h2, e⟩ <;> rw [e]
    · constructor <;> first | assumption | skip
      · exact Memory.write_wf _ _ _ a2
      · intro k v hk
        simp only [sample_buf, appendEdge_buf, Memory.read_write] at hk
        split at hk
        · next hke => rw [hke]; exact h2
        · exact a3 k v hk
      · intro k hk
        simp only [sample_buf, appendEdge_buf, Memory.read_write]
        split
        · rfl
        · refine a5 k ?_
          have : k < s.bufIdx + 1 := hk
          show k < s.bufIdx
          omega
      · intro _
        show l = false ↔ (s.bufIdx + 1) % 2 = 0
        have : l = !s.prevLevel := by cases l <;> cases hq : s.prevLevel <;> simp_all
        subst this
        cases hq : s.prevLevel <;> simp [hq] at hp ⊢ <;> omega
      · intro _; simp [appendEdge, State.duration]
    · constructor <;> first | assumption | skip
      · intro c hc
        show lastWrite _ (s.trace ++ [_]) = _
        rw [lastWrite_append]; simpa [lastWrite] using a10 c hc
      · intro h; simp [overflowDone] at h
      · intro h; simp [overflowDone] at h
    · constructor <;> first | assumption | simp [frameEnd]
    · constructor <;> first | assumption | simp [noiseAbort]
    · constructor <;> first | assumption | skip
      · intro _; subst h1; exact hp
      · intro _; exact h2
  · have hann : ∀ c, decodeNec s.cfg s.entries s.lastCmd = some c → Inv (announceCommand c s) := by
      intro c hc
      constructor
      iterate 9 assumption
      · intro d hd
        show lastWrite _ (s.trace ++ [_]) = _
        rw [lastWrite_append]; simpa [lastWrite] using a10 d hd
      · simp [announceCommand, hr]
      · simp [announceCommand, hr]
      · intro d hd
        have hd : some c = some d := hd
        cases hd
        rcases decodeNec_known hc with h | h
        · exact a13 _ h
        · exact h
    have hs : ∀ u : State, Inv (leaveDone u) → Inv ((leaveDone u).sample l) := by
      rintro u ⟨a1, a2, a3, a4, a5, a6, a7, a8, a9, a10, a11, a12, a13⟩
      constructor <;> first | assumption | simp
    rcases doneArm_next hu with ⟨-, rfl⟩ | ⟨c, hc, -, rfl⟩ | ⟨c, v, hc, -, hv, rfl⟩
    · apply hs; constructor <;> assumption
    · exact hs _ (inv_leaveDone (hann c hc))
    · exact hs _ (inv_leaveDone (runCalls_induction (P := Inv) (fun i v s h => inv_setTargetOp h i v) (fun p s t h => inv_addOp h) hv (hann c hc)))

end Sys2Proof.Machine
end

