-- ==== Sys2Proof/Laws/Operands.lean ====
section
/-! SUPPORT. The operand forms and guards, one lemma each: a payload's bytes, the compensations as numbers, the guards of
the arms as comparisons of numbers. -/

namespace Sys2Proof.Machine

/-- A payload bit by bit from its four bytes (R88). -/
theorem payloadOfBytes_getLsbD (b0 b1 b2 b3 : Byte) (i : Nat) :
    (payloadOfBytes b0 b1 b2 b3).getLsbD i =
      if i < 8 then b0.getLsbD i
      else if i - 8 < 8 then b1.getLsbD (i - 8)
      else if i - 8 - 8 < 8 then b2.getLsbD (i - 8 - 8)
      else b3.getLsbD (i - 8 - 8 - 8) := by
  show BitVec.getLsbD (w := 8 + 8 + 8 + 8) (b3 ++ b2 ++ b1 ++ b0) i = _
  rw [BitVec.getLsbD_append, BitVec.getLsbD_append, BitVec.getLsbD_append]

@[simp] theorem payB0_payloadOfBytes (b0 b1 b2 b3 : Byte) : payB0 (payloadOfBytes b0 b1 b2 b3) = b0 := by
  apply BitVec.eq_of_getLsbD_eq
  intro i hi
  have h0 : 0 + i = i := by omega
  rw [payB0, BitVec.getLsbD_extractLsb', payloadOfBytes_getLsbD]
  simp only [h0, hi, if_true, decide_true, Bool.true_and]

@[simp] theorem payB1_payloadOfBytes (b0 b1 b2 b3 : Byte) : payB1 (payloadOfBytes b0 b1 b2 b3) = b1 := by
  apply BitVec.eq_of_getLsbD_eq
  intro i hi
  have h1 : ¬ 8 + i < 8 := by omega
  have h0 : 8 + i - 8 = i := by omega
  rw [payB1, BitVec.getLsbD_extractLsb', payloadOfBytes_getLsbD]
  simp only [h1, h0, hi, if_true, if_false, decide_true, Bool.true_and]

@[simp] theorem payB2_payloadOfBytes (b0 b1 b2 b3 : Byte) : payB2 (payloadOfBytes b0 b1 b2 b3) = b2 := by
  apply BitVec.eq_of_getLsbD_eq
  intro i hi
  have h1 : ¬ 16 + i < 8 := by omega
  have h2 : ¬ 16 + i - 8 < 8 := by omega
  have h0 : 16 + i - 8 - 8 = i := by omega
  rw [payB2, BitVec.getLsbD_extractLsb', payloadOfBytes_getLsbD]
  simp only [h1, h2, h0, hi, if_true, if_false, decide_true, Bool.true_and]

@[simp] theorem payB3_payloadOfBytes (b0 b1 b2 b3 : Byte) : payB3 (payloadOfBytes b0 b1 b2 b3) = b3 := by
  apply BitVec.eq_of_getLsbD_eq
  intro i hi
  have h1 : ¬ 24 + i < 8 := by omega
  have h2 : ¬ 24 + i - 8 < 8 := by omega
  have h3 : ¬ 24 + i - 8 - 8 < 8 := by omega
  have h0 : 24 + i - 8 - 8 - 8 = i := by omega
  rw [payB3, BitVec.getLsbD_extractLsb', payloadOfBytes_getLsbD]
  simp only [h1, h2, h3, h0, hi, if_false, decide_true, Bool.true_and]

/-- `comp_mark` as a number (R140). -/
theorem compMark_toNat (c : Config) (d : U32) : (compMark c d).toNat = d.toNat - c.compUs := by
  unfold compMark satSub
  rw [BitVec.toNat_ofNat]
  exact Nat.mod_eq_of_lt (Nat.lt_of_le_of_lt (Nat.sub_le _ _) d.isLt)

/-- `comp_space` as a number (R141). -/
theorem compSpace_toNat (c : Config) (d : U32) : (compSpace c d).toNat = min (d.toNat + c.compUs) (2 ^ 32 - 1) := by
  unfold compSpace satAdd
  rw [BitVec.toNat_ofNat]
  exact Nat.mod_eq_of_lt (Nat.lt_of_le_of_lt (Nat.min_le_right _ _) (by norm_num))

theorem gapExceeded_iff (s : State) (now : U32) : s.gapExceeded now = true ↔ frameGapUs < (s.duration now).toNat := by
  simp [State.gapExceeded]

theorem markExceeded_iff (s : State) (now : U32) :
    s.markExceeded now = true ↔ markAbortUs s.cfg < (s.duration now).toNat := by
  simp [State.markExceeded]

theorem fallDue_iff (c : Channel) (now : U32) :
    c.fallDue now = true ↔ c.level = true ∧ c.pulseTime.toNat < (now - c.lastTransition).toNat := by
  unfold Channel.fallDue Channel.elapsed
  rw [Bool.and_eq_true, decide_eq_true_iff]

theorem riseDue_iff (c : Channel) (now : U32) :
    c.riseDue now = true ↔ c.level = false ∧ pwmPeriodUs < (now - c.lastTransition).toNat + c.pulseTime.toNat := by
  unfold Channel.riseDue Channel.elapsed
  rw [Bool.and_eq_true, decide_eq_true_iff, Bool.not_eq_true']

/-- Writing the pulse time of a record that exists is setting that record. -/
theorem setPulse_eq {chs : List Channel} {k : Nat} {c : Channel} (p : BitVec 16) (h : chs[k]? = some c) :
    setPulse chs k p = chs.set k { c with pulseTime := p } := by
  unfold setPulse
  rw [List.modify_eq_set_getElem?, h]
  rfl

/-- The entries do not depend on the clock, the pin or the channels. -/
theorem entries_congr {s t : State} (hb : t.buf = s.buf) (hi : t.bufIdx = s.bufIdx) : t.entries = s.entries := by
  unfold State.entries State.slot
  rw [hb, hi]

end Sys2Proof.Machine
end

