-- ==== Sys2Proof/Laws/PerInstr.lean ====
section
/-! SUPPORT. One lemma per constructor: which rows the encoder gives a stimulus. -/

namespace Sys2Proof.Laws.Encodable

/-- The encoder gives a stimulus to exactly the rows that are no part of a pass or of the decode function. -/
def Statement (i : Instr) : Prop := (encode i).isSome = !i.internal

theorem hdrMark (d : U32) : Statement (.hdrMark d) := rfl
theorem hdrSpace (d : U32) : Statement (.hdrSpace d) := rfl
theorem rptSpace (d : U32) : Statement (.rptSpace d) := rfl
theorem bitMark (d : U32) : Statement (.bitMark d) := rfl
theorem oneSpace (d : U32) : Statement (.oneSpace d) := rfl
theorem zeroSpace (d : U32) : Statement (.zeroSpace d) := rfl
theorem dataFrame (entries : List U32) : Statement (.dataFrame entries) := rfl
theorem repeatFrame (entries : List U32) : Statement (.repeatFrame entries) := rfl
theorem necPayload (v : BitVec 32) : Statement (.necPayload v) := rfl
theorem cmdUp (b0 b1 : Byte) : Statement (.cmdUp b0 b1) := rfl
theorem cmdDown (b0 b1 : Byte) : Statement (.cmdDown b0 b1) := rfl
theorem cmdLeft (b0 b1 : Byte) : Statement (.cmdLeft b0 b1) := rfl
theorem cmdRight (b0 b1 : Byte) : Statement (.cmdRight b0 b1) := rfl
theorem cmdOk (b0 b1 : Byte) : Statement (.cmdOk b0 b1) := rfl
theorem cmdDigit1 (b0 b1 : Byte) : Statement (.cmdDigit1 b0 b1) := rfl
theorem cmdDigit2 (b0 b1 : Byte) : Statement (.cmdDigit2 b0 b1) := rfl
theorem cmdDigit3 (b0 b1 : Byte) : Statement (.cmdDigit3 b0 b1) := rfl
theorem cmdDigit4 (b0 b1 : Byte) : Statement (.cmdDigit4 b0 b1) := rfl
theorem cmdDigit5 (b0 b1 : Byte) : Statement (.cmdDigit5 b0 b1) := rfl
theorem cmdDigit6 (b0 b1 : Byte) : Statement (.cmdDigit6 b0 b1) := rfl
theorem cmdDigit7 (b0 b1 : Byte) : Statement (.cmdDigit7 b0 b1) := rfl
theorem cmdDigit8 (b0 b1 : Byte) : Statement (.cmdDigit8 b0 b1) := rfl
theorem cmdDigit9 (b0 b1 : Byte) : Statement (.cmdDigit9 b0 b1) := rfl
theorem cmdDigit0 (b0 b1 : Byte) : Statement (.cmdDigit0 b0 b1) := rfl
theorem cmdStar (b0 b1 : Byte) : Statement (.cmdStar b0 b1) := rfl
theorem cmdPound (b0 b1 : Byte) : Statement (.cmdPound b0 b1) := rfl
theorem tick (irIn : Bool) (missed : Nat) : Statement (.tick irIn missed) := rfl
theorem configure (capacity : Nat) : Statement (.configure capacity) := rfl
theorem add (pin : PinId) : Statement (.add pin) := rfl
theorem setTarget (index value : Int) : Statement (.setTarget index value) := rfl
theorem onReceive (handler : Handler) : Statement (.onReceive handler) := rfl
theorem decIdleStart (now : U32) (level : Bool) : Statement (.decIdleStart now level) := rfl
theorem decRxAppend (now : U32) (level : Bool) : Statement (.decRxAppend now level) := rfl
theorem decRxOverflow (level : Bool) : Statement (.decRxOverflow level) := rfl
theorem decRxFrameEnd (now : U32) (level : Bool) : Statement (.decRxFrameEnd now level) := rfl
theorem decRxNoiseAbort (now : U32) (level : Bool) : Statement (.decRxNoiseAbort now level) := rfl
theorem decDone : Statement (.decDone) := rfl
theorem decHandlerWindow (c : Command) : Statement (.decHandlerWindow c) := rfl
theorem pwmFall (index : Nat) (now : U32) : Statement (.pwmFall index now) := rfl
theorem pwmRise (index : Nat) (now : U32) : Statement (.pwmRise index now) := rfl
theorem decoderUpdate (now : U32) (level : Bool) : Statement (.decoderUpdate now level) := rfl
theorem receivingDispatch (now : U32) (level : Bool) : Statement (.receivingDispatch now level) := rfl
theorem schedulerUpdate (now : U32) : Statement (.schedulerUpdate now) := rfl
theorem compMark (d : U32) : Statement (.compMark d) := rfl
theorem compSpace (d : U32) : Statement (.compSpace d) := rfl
theorem inWindow (c e : Nat) : Statement (.inWindow c e) := rfl
theorem matchesMark (d : U32) (e : Nat) : Statement (.matchesMark d e) := rfl
theorem matchesSpace (d : U32) (e : Nat) : Statement (.matchesSpace d e) := rfl
theorem necDecode (entries : List U32) (last : Option Command) : Statement (.necDecode entries last) := rfl

end Sys2Proof.Laws.Encodable
end

