-- ==== Sys2Proof/Tests/Slice0.lean ====
section
/-! SUPPORT. Tests of one step each, with results from the spec's own tables and vectors (95_test_vectors.md and the
rules named), the decoding of every row that has a stimulus, the ill-formed terms that `wellFormed` refuses, and for every
obligation with hypotheses a state and operands that meet them. -/

namespace Sys2Proof.Tests

open Sys2Proof.Machine
open Host (Outcome)

/-! ### Helpers -/

/-- The next state of an answer. -/
def after (o : Answer) : Option State :=
  match o with
  | .next s => some s
  | .fault _ => none
  | .refused _ => none

/-- What an answer returned. -/
def returned (o : Answer) : Option Result := (after o).map State.result

/-- Why an answer is none. -/
def refusal (o : Answer) : Option Refusal :=
  match o with
  | .next _ => none
  | .fault _ => none
  | .refused r => some r

/-- The state after reset, under other values of the configuration. -/
def resetWith (cfg : Config) : State := { State.reset with cfg := cfg }

/-- The default table of R93 (general knowledge, G1); only the tests that name it use it. -/
def remoteTable : List Byte :=
  [0x18#8, 0x52#8, 0x08#8, 0x5A#8, 0x1C#8, 0x45#8, 0x46#8, 0x47#8, 0x44#8]
    ++ [0x40#8, 0x43#8, 0x07#8, 0x15#8, 0x09#8, 0x19#8, 0x16#8, 0x0D#8]

/-- Reset under that table. -/
def remote : State := resetWith { defaultConfig with cmdTable := remoteTable }

/-- A channel on pin 9 just added at clock 0 (95_test_vectors.md P3). -/
def servo : Channel := { pin := 9#8, level := false, pulseTime := 1500#16, lastTransition := 0#32 }

/-- Reset, then `configure(1)` and `add(9)` (95_test_vectors.md W1). -/
def oneServo : State :=
  { State.reset with
    chCapacity := 1, ch := [servo], trace := [(0#32, .gpioMode 9#8 .output), (0#32, .gpioWrite 9#8 false)] }

/-- One tick into the header space of 95_test_vectors.md P4, a low tick presented next. -/
def midFrame : State :=
  { oneServo with
    clock := 9300#32, rxState := .receiving, buf := [(0, 9000#32)], bufIdx := 1, prevLevel := true, edgeRef := 9250#32
    inbox := [.op OpRequest.zero] }

/-- `Done` with a repeat frame recorded and `Up` cached (95_test_vectors.md P2, clock 129750). -/
def repeatDone : State :=
  { State.reset with
    clock := 129750#32, rxState := .done, buf := [(0, 9000#32), (1, 2250#32), (2, 550#32)], bufIdx := 3
    edgeRef := 119700#32, lastCmd := some 0x18#8 }

/-- The same with an empty cache (P2b). -/
def repeatDoneEmpty : State := { repeatDone with lastCmd := none }

/-- The same with one servo and a handler that makes `calls` on `Up`. -/
def handled (calls : List HandlerOp) : State :=
  { repeatDone with
    handlerSet := true, handler := [(0x18#8, calls)], chCapacity := 2, ch := [servo], trace := oneServo.trace }

/-- A wave in the first header mark: `Receiving`, the pin low, nothing recorded. -/
def inMark : State := { State.reset with clock := 300#32, rxState := .receiving, prevLevel := false, edgeRef := 250#32 }

/-- A full buffer of one slot, `Receiving`. -/
def full : State :=
  { resetWith { defaultConfig with bufCapacity := 1 } with
    rxState := .receiving, buf := [(0, 150#32)], bufIdx := 1, clock := 900#32, edgeRef := 750#32 }

/-! ### Well-formedness refuses -/

theorem test_ill_formed_symbols :
    wellFormed defaultConfig (.hdrMark 6849#32) = false ∧
    wellFormed defaultConfig (.hdrSpace 3274#32) = false ∧
    wellFormed defaultConfig (.rptSpace 2713#32) = false ∧
    wellFormed defaultConfig (.bitMark 801#32) = false ∧
    wellFormed defaultConfig (.oneSpace 1167#32) = false ∧
    wellFormed defaultConfig (.zeroSpace 601#32) = false := by decide

/-- Where windows overlap the symbol tested first takes the entry (R81): `TOL_PCT` 40 and 51. -/
theorem test_ill_formed_second_candidates :
    wellFormed { defaultConfig with tolPct := 40 } (.hdrSpace 2800#32) = false ∧
    wellFormed { defaultConfig with tolPct := 51 } (.zeroSpace 745#32) = false := by decide

theorem test_ill_formed_frames :
    wellFormed defaultConfig (.repeatFrame [9000#32, 2250#32]) = false ∧
    wellFormed defaultConfig (.repeatFrame [9000#32, 2250#32, 801#32]) = false ∧
    wellFormed defaultConfig (.dataFrame [9000#32, 4500#32, 560#32]) = false := by decide

/-- A payload that a `CMD` row selects is written as that row. -/
theorem test_ill_formed_payload : wellFormed defaultConfig (.necPayload 0xE718FF00#32) = false := by decide

/-- Operands wider than the ports (U9). -/
theorem test_ill_formed_operands :
    wellFormed defaultConfig (.configure 65536) = false ∧
    wellFormed defaultConfig (.setTarget (-1) 0) = false ∧
    wellFormed defaultConfig (.setTarget 65536 0) = false ∧
    wellFormed defaultConfig (.setTarget 0 32768) = false ∧
    wellFormed defaultConfig (.setTarget 0 (-32769)) = false := by decide

/-! ### Decoding -/

/-- R88, R93: `b3 b2 b1 b0` of address 0x00 and these command bytes, bit by bit. -/
theorem test_decode_up_to_digit1 :
    decodeTableWord 32 0b11100111000110001111111100000000 = some (.cmdUp 0x00#8 0xFF#8) ∧
    decodeTableWord 32 0b10101101010100101111111100000000 = some (.cmdDown 0x00#8 0xFF#8) ∧
    decodeTableWord 32 0b11110111000010001111111100000000 = some (.cmdLeft 0x00#8 0xFF#8) ∧
    decodeTableWord 32 0b10100101010110101111111100000000 = some (.cmdRight 0x00#8 0xFF#8) ∧
    decodeTableWord 32 0b11100011000111001111111100000000 = some (.cmdOk 0x00#8 0xFF#8) ∧
    decodeTableWord 32 0b10111010010001011111111100000000 = some (.cmdDigit1 0x00#8 0xFF#8) := by decide

/-- R88, R93: `b3 b2 b1 b0` of address 0x00 and these command bytes, bit by bit. -/
theorem test_decode_digit2_to_digit7 :
    decodeTableWord 32 0b10111001010001101111111100000000 = some (.cmdDigit2 0x00#8 0xFF#8) ∧
    decodeTableWord 32 0b10111000010001111111111100000000 = some (.cmdDigit3 0x00#8 0xFF#8) ∧
    decodeTableWord 32 0b10111011010001001111111100000000 = some (.cmdDigit4 0x00#8 0xFF#8) ∧
    decodeTableWord 32 0b10111111010000001111111100000000 = some (.cmdDigit5 0x00#8 0xFF#8) ∧
    decodeTableWord 32 0b10111100010000111111111100000000 = some (.cmdDigit6 0x00#8 0xFF#8) ∧
    decodeTableWord 32 0b11111000000001111111111100000000 = some (.cmdDigit7 0x00#8 0xFF#8) := by decide

/-- R88, R93: `b3 b2 b1 b0` of address 0x00 and these command bytes, bit by bit. -/
theorem test_decode_digit8_to_pound :
    decodeTableWord 32 0b11101010000101011111111100000000 = some (.cmdDigit8 0x00#8 0xFF#8) ∧
    decodeTableWord 32 0b11110110000010011111111100000000 = some (.cmdDigit9 0x00#8 0xFF#8) ∧
    decodeTableWord 32 0b11100110000110011111111100000000 = some (.cmdDigit0 0x00#8 0xFF#8) ∧
    decodeTableWord 32 0b11101001000101101111111100000000 = some (.cmdStar 0x00#8 0xFF#8) ∧
    decodeTableWord 32 0b11110010000011011111111100000000 = some (.cmdPound 0x00#8 0xFF#8) := by decide

/-- R98: `op_code` in bits 2 to 0, the operands where R41's ports carry them. -/
theorem test_decode_operations :
    decodeTableWord 8 0b00000000 = some (.tick false 0) ∧
    decodeTableWord 8 0b00000001 = some (.configure 0) ∧
    decodeTableWord 8 0b00000010 = some (.add 0#8) ∧
    decodeTableWord 8 0b00000011 = some (.setTarget 0 0) ∧
    decodeTableWord 8 0b00000100 = some (.onReceive []) ∧
    decodeTableWord 8 0b00000101 = none ∧ decodeTableWord 8 0b00000110 = none ∧
    decodeTableWord 8 0b00000111 = none := by decide

theorem test_decode_operands :
    decode defaultConfig (.op { OpRequest.zero with irIn := true, missed := 2 }) = .instr (.tick true 2) ∧
    decode defaultConfig (.op { OpRequest.zero with opCode := 1#3, opIndex := 2#16 }) = .instr (.configure 2) ∧
    decode defaultConfig (.op { OpRequest.zero with opCode := 2#3, opPin := 9#8 }) = .instr (.add 9#8) ∧
    decode defaultConfig (.op { OpRequest.zero with opCode := 3#3, opIndex := 1#16, opValue := 0x8000#16 })
      = .instr (.setTarget 1 (-32768)) ∧
    decode defaultConfig (.op { OpRequest.zero with opCode := 4#3, handler := [(0x18#8, [.add 3#8])] })
      = .instr (.onReceive [(0x18#8, [.add 3#8])]) := by decide

/-- R88: no `CMD` row has these bits 31 to 16. -/
theorem test_decode_payload :
    decodeTableWord 32 0b11100110000110001111111100000000 = some (.necPayload 0xE618FF00#32) := by decide

/-- R81: each symbol at its position, by its measured window. -/
theorem test_decode_symbols :
    decode defaultConfig (.entry 0 9000#32) = .instr (.hdrMark 9000#32) ∧
    decode defaultConfig (.entry 1 2712#32) = .instr (.rptSpace 2712#32) ∧
    decode defaultConfig (.entry 1 3275#32) = .instr (.hdrSpace 3275#32) ∧
    decode defaultConfig (.entry 64 560#32) = .instr (.bitMark 560#32) ∧
    decode defaultConfig (.entry 65 1690#32) = .instr (.oneSpace 1690#32) ∧
    decode defaultConfig (.entry 65 560#32) = .instr (.zeroSpace 560#32) := by decide

theorem test_decode_no_symbol :
    decode defaultConfig (.entry 0 6849#32) = .rejected .noSymbol ∧
    decode defaultConfig (.entry 1 3000#32) = .rejected .noSymbol ∧
    decode defaultConfig (.entry 2 519#32) = .rejected .noSymbol ∧
    decode defaultConfig (.entry 3 601#32) = .rejected .noSymbol := by decide

/-- R83 to R85. -/
theorem test_decode_frames :
    decode defaultConfig (.frame [9000#32, 2250#32, 560#32]) = .instr (.repeatFrame [9000#32, 2250#32, 560#32]) ∧
    decode defaultConfig (.frame (nominalFrame 0xE718FF00#32)) = .instr (.dataFrame (nominalFrame 0xE718FF00#32)) ∧
    decode defaultConfig (.frame [9000#32, 2250#32, 560#32, 560#32]) = .rejected .noFrame ∧
    decode defaultConfig .rst = .reset := by decide +kernel

/-- The encoder gives the words above; the parts of a pass have none. -/
theorem test_encode :
    encode (.cmdUp 0x00#8 0xFF#8) = some (.payload 0b11100111000110001111111100000000#32) ∧
    encode (.cmdPound 0x00#8 0xFF#8) = some (.payload 0b11110010000011011111111100000000#32) ∧
    encode (.setTarget 1 (-1)) = some (.op { OpRequest.zero with opCode := 3#3, opIndex := 1#16, opValue := 0xFFFF#16 }) ∧
    encode .decDone = none ∧ encode (.necDecode [] none) = none := by decide

/-! ### Symbols, compensation, windows (95_test_vectors.md 2.2) -/

theorem test_hdr_mark_edges :
    [6849#32, 6850#32, 11350#32, 11351#32].map (fun d => returned (exec (.hdrMark d) State.reset)) =
      [some (.truth false), some (.truth true), some (.truth true), some (.truth false)] := by decide

theorem test_hdr_space_edges :
    [3274#32, 3275#32, 5525#32, 5526#32].map (fun d => returned (exec (.hdrSpace d) State.reset)) =
      [some (.truth false), some (.truth true), some (.truth true), some (.truth false)] := by decide

theorem test_rpt_space_edges :
    [1587#32, 1588#32, 2712#32, 2713#32].map (fun d => returned (exec (.rptSpace d) State.reset)) =
      [some (.truth false), some (.truth true), some (.truth true), some (.truth false)] := by decide

theorem test_bit_mark_edges :
    [519#32, 520#32, 800#32, 801#32].map (fun d => returned (exec (.bitMark d) State.reset)) =
      [some (.truth false), some (.truth true), some (.truth true), some (.truth false)] := by decide

theorem test_one_space_edges :
    [1167#32, 1168#32, 2012#32, 2013#32].map (fun d => returned (exec (.oneSpace d) State.reset)) =
      [some (.truth false), some (.truth true), some (.truth true), some (.truth false)] := by decide

theorem test_zero_space_edges :
    [319#32, 320#32, 600#32, 601#32].map (fun d => returned (exec (.zeroSpace d) State.reset)) =
      [some (.truth false), some (.truth true), some (.truth true), some (.truth false)] := by decide

/-- M1, M2. -/
theorem test_comp_mark :
    [9100#32, 101#32, 100#32, 99#32, 0#32].map (fun d => returned (exec (.compMark d) State.reset)) =
      [some (.word 9000#32), some (.word 1#32), some (.word 0#32), some (.word 0#32), some (.word 0#32)] := by decide

/-- M3, M4. -/
theorem test_comp_space :
    [4400#32, 0#32, 4294967194#32, 4294967195#32, 4294967295#32].map
        (fun d => returned (exec (.compSpace d) State.reset)) =
      [some (.word 4500#32), some (.word 100#32), some (.word 4294967294#32), some (.word 4294967295#32),
        some (.word 4294967295#32)] := by decide

/-- M5 to M10. -/
theorem test_in_window :
    [(6750, 9000), (6749, 9000), (11250, 9000), (11251, 9000), (1687, 2250), (1688, 2250), (2812, 2250),
        (2813, 2250)].map (fun p : Nat × Nat => returned (exec (.inWindow p.1 p.2) State.reset)) =
      [some (.truth true), some (.truth false), some (.truth true), some (.truth false), some (.truth false),
        some (.truth true), some (.truth true), some (.truth false)] := by decide

/-- M12, M14. -/
theorem test_matches_mark :
    returned (exec (.matchesMark 100#32 560) State.reset) = some (.truth false) ∧
    [9100#32, 9099#32, 9101#32].map
        (fun d => returned (exec (.matchesMark d 9000) (resetWith { defaultConfig with tolPct := 0 }))) =
      [some (.truth true), some (.truth false), some (.truth false)] := by decide

/-- M13 and R144's examples. -/
theorem test_matches_space :
    [4294967295#32, 460#32, 319#32, 320#32, 600#32, 601#32].map
        (fun d => returned (exec (.matchesSpace d 560) State.reset)) =
      [some (.truth false), some (.truth true), some (.truth false), some (.truth true), some (.truth true),
        some (.truth false)] := by decide

/-! ### Decode (95_test_vectors.md 2.3) -/

/-- The list `F` of 95_test_vectors.md. -/
theorem test_nominal_frame :
    nominalFrame 0xE718FF00#32 =
      [9000#32, 4500#32]
        ++ [560#32, 560#32, 560#32, 560#32, 560#32, 560#32, 560#32, 560#32, 560#32, 560#32, 560#32, 560#32, 560#32]
        ++ [560#32, 560#32, 560#32]
        ++ [560#32, 1690#32, 560#32, 1690#32, 560#32, 1690#32, 560#32, 1690#32, 560#32, 1690#32, 560#32, 1690#32]
        ++ [560#32, 1690#32, 560#32, 1690#32]
        ++ [560#32, 560#32, 560#32, 560#32, 560#32, 560#32, 560#32, 1690#32, 560#32, 1690#32, 560#32, 560#32]
        ++ [560#32, 560#32, 560#32, 560#32]
        ++ [560#32, 1690#32, 560#32, 1690#32, 560#32, 1690#32, 560#32, 560#32, 560#32, 560#32, 560#32, 1690#32]
        ++ [560#32, 1690#32, 560#32, 1690#32, 560#32] := by decide +kernel

/-- D1 to D6. -/
theorem test_decode_short_and_repeat :
    [[], [9000#32], [9000#32, 2250#32, 560#32], [9000#32, 2250#32], [9000#32, 2250#32, 560#32, 560#32]].map
        (fun es => returned (exec (.necDecode es (some 0x18#8)) State.reset)) =
      [some (.command none), some (.command none), some (.command (some 0x18#8)), some (.command none),
        some (.command none)] ∧
    returned (exec (.necDecode [9000#32, 2250#32, 560#32] none) State.reset) = some (.command none) := by decide

/-- D10 to D12, D14, D15, D17, D18, D20, D21. -/
theorem test_decode_data :
    let f := nominalFrame 0xE718FF00#32
    [f, f.take 66, f.take 65, f.set 1 5526#32, f.set 1 2250#32, f.set 3 601#32, f.set 3 1168#32, f.set 64 519#32,
        f.set 65 320#32].map (fun es => returned (exec (.necDecode es none) State.reset)) =
      [some (.command (some 0x18#8)), some (.command (some 0x18#8)), some (.command none), some (.command none),
        some (.command none), some (.command none), some (.command none), some (.command none),
        some (.command none)] := by decide +kernel

/-- D22 to D26, D30, and D27 under the table of R93. -/
theorem test_data_frame :
    [nominalFrame 0xE618FF00#32, nominalFrame 0xE718FE00#32, nominalFrame 0xE718ED12#32, nominalFrame 0xE71800FF#32,
        nominalFrame 0xAD52FF00#32, predistortedFrame 0xE718FF00#32].map
        (fun es => returned (exec (.dataFrame es) State.reset)) =
      [some (.command none), some (.command none), some (.command (some 0x18#8)), some (.command (some 0x18#8)),
        some (.command none), some (.command (some 0x18#8))] ∧
    returned (exec (.dataFrame (nominalFrame 0xAD52FF00#32)) remote) = some (.command (some 0x52#8)) := by
  decide +kernel

/-- D31: the one-space test comes first. -/
theorem test_one_space_first :
    returned (exec (.oneSpace 745#32) (resetWith { defaultConfig with tolPct := 51 })) = some (.truth true) ∧
    returned (exec (.zeroSpace 745#32) (resetWith { defaultConfig with tolPct := 51 })) = some (.truth true) ∧
    (readBits { defaultConfig with tolPct := 51 } 1 [560#32, 745#32]) = some [true] := by decide

/-- S1, R153: the cache, which may be empty. -/
theorem test_repeat_frame :
    returned (exec (.repeatFrame [9000#32, 2250#32, 560#32]) repeatDone) = some (.command (some 0x18#8)) ∧
    returned (exec (.repeatFrame [9000#32, 2250#32, 560#32]) State.reset) = some (.command none) ∧
    returned (exec (.repeatFrame [9000#32, 2250#32]) repeatDone) = some (.command none) := by decide

/-- R157, R158. -/
theorem test_nec_payload :
    [0xE718FF00#32, 0xE718ED12#32, 0xE618FF00#32, 0xE718FE00#32, 0xE619FF00#32].map
        (fun v => returned (exec (.necPayload v) State.reset)) =
      [some (.command (some 0x18#8)), some (.command (some 0x18#8)), some (.command none), some (.command none),
        some (.command none)] := by decide

/-- R92: the one row of the source; a wrong address complement fails it (R157). -/
theorem test_cmd_up :
    returned (exec (.cmdUp 0x00#8 0xFF#8) State.reset) = some (.command (some 0x18#8)) ∧
    returned (exec (.cmdUp 0x00#8 0xFE#8) State.reset) = some (.command none) := by decide

/-- R93's bytes under R93's table, `Unknown` under the source's one row (U10). -/
theorem test_cmd_rows :
    ([Instr.cmdDown, .cmdLeft, .cmdRight, .cmdOk, .cmdDigit1, .cmdDigit2, .cmdDigit3, .cmdDigit4].map
        (fun i => returned (exec (i 0x00#8 0xFF#8) remote))) =
      [0x52#8, 0x08#8, 0x5A#8, 0x1C#8, 0x45#8, 0x46#8, 0x47#8, 0x44#8].map (fun c => some (.command (some c))) ∧
    ([Instr.cmdDigit5, .cmdDigit6, .cmdDigit7, .cmdDigit8, .cmdDigit9, .cmdDigit0, .cmdStar, .cmdPound].map
        (fun i => returned (exec (i 0x00#8 0xFF#8) remote))) =
      [0x40#8, 0x43#8, 0x07#8, 0x15#8, 0x09#8, 0x19#8, 0x16#8, 0x0D#8].map (fun c => some (.command (some c))) ∧
    returned (exec (.cmdDown 0x00#8 0xFF#8) State.reset) = some (.command none) := by decide

/-! ### Host operations (95_test_vectors.md W5 to W7, T1 to T11) -/

/-- W5, W7, U2. -/
theorem test_configure :
    returned (exec (.configure 0) State.reset) = some .invalidCapacity ∧
    (after (exec (.configure 2) State.reset)).map (fun s => (s.chCapacity, s.ch, s.result)) = some (2, [], .ok) ∧
    refusal (exec (.configure 2) oneServo) = some .secondConfigure := by decide

/-- W7: the second of two channels, and a full table. -/
theorem test_add :
    (after (exec (.add 10#8) { oneServo with chCapacity := 2 })).map
        (fun s => (s.ch.getLast?, s.result, s.trace.length, s.pinLevel 10#8)) =
      some (some { servo with pin := 10#8 }, .okIndex 1, 4, some false) ∧
    returned (exec (.add 10#8) oneServo) = some .capacityExceeded ∧
    returned (exec (.add 9#8) State.reset) = some .capacityExceeded := by decide

/-- U6. -/
theorem test_add_refuses :
    refusal (exec (.add 9#8) { oneServo with chCapacity := 2 }) = some .pinInUse ∧
    refusal (exec (.add 0xFF#8) { oneServo with chCapacity := 2 }) = some .pinIsIrPin := by decide

/-- T1, T2, T4, T6 to T9. -/
theorem test_set_target :
    [0, 45, 91, 180, 181, -1, -32768, 32767].map
        (fun v => (after (exec (.setTarget 0 v) oneServo)).map (fun s => s.ch.map (fun c => c.pulseTime.toNat))) =
      [some [1000], some [1250], some [1505], some [2000], some [2000], some [1000], some [1000], some [2000]] := by
  decide

/-- T10, T11. -/
theorem test_set_target_out_of_range :
    exec (.setTarget 1 90) oneServo = .next oneServo ∧ exec (.setTarget (-1) 90) oneServo = .next oneServo ∧
    exec (.setTarget 0 90) State.reset = .next State.reset := ⟨rfl, rfl, rfl⟩

/-- U1: last-wins. -/
theorem test_on_receive :
    (after (exec (.onReceive [(0x18#8, [])]) (handled [.add 3#8]))).map (fun s => (s.handlerSet, s.handler)) =
      some (true, [(0x18#8, [])]) := by decide

/-! ### The arms and the updates -/

/-- R121's example. -/
theorem test_idle_start :
    (after (exec (.decIdleStart 250#32 false) State.reset)).map (fun s => (s.bufIdx, s.edgeRef, s.rxState)) =
      some (0, 250#32, .receiving) ∧
    exec (.decIdleStart 250#32 true) State.reset = .next State.reset := ⟨by decide, rfl⟩

/-- R123's example; the level is sampled by the update, not by the arm (R120). -/
theorem test_rx_append :
    (after (exec (.decRxAppend 9250#32 true) inMark)).map (fun s => (s.buf, s.bufIdx, s.edgeRef, s.prevLevel)) =
      some ([(0, 9000#32)], 1, 9250#32, false) := by decide

/-- R124: nothing but the state and the diagnostic. -/
theorem test_rx_overflow :
    after (exec (.decRxOverflow true) { full with prevLevel := false }) =
      some { full with prevLevel := false, rxState := .done, trace := [(900#32, .diagOverflow)] } := by decide

/-- R125's example: 10000 is not yet the end. -/
theorem test_rx_frame_end :
    [77900#32, 77950#32].map (fun now => (after (exec (.decRxFrameEnd now true)
        { midFrame with edgeRef := 67900#32 })).map State.rxState) = [some .receiving, some .done] := by decide

/-- R126's example: 11250 is not yet noise. -/
theorem test_rx_noise_abort :
    [11400#32, 11450#32].map (fun now => (after (exec (.decRxNoiseAbort now false)
        { inMark with edgeRef := 150#32 })).map State.rxState) = [some .receiving, some .idle] := by decide

/-- R127: a known command is cached and announced, `Unknown` is not. -/
theorem test_done :
    (after (exec .decDone repeatDone)).map (fun s => (s.lastCmd, s.rxState, s.trace)) =
      some (some 0x18#8, .idle, [(129750#32, .command 0x18#8)]) ∧
    (after (exec .decDone repeatDoneEmpty)).map (fun s => (s.lastCmd, s.rxState, s.trace)) =
      some (none, .idle, []) := by decide

/-- R129's example, and U7. -/
theorem test_handler_window :
    (after (exec (.decHandlerWindow 0x18#8) (handled [.setTarget 0 180, .add 10#8]))).map
        (fun s => s.ch.map (fun c => (c.pin, c.pulseTime))) = some [(9#8, 2000#16), (10#8, 1500#16)] ∧
    refusal (exec (.decHandlerWindow 0x18#8) (handled [.forbidden .tick])) = some (.handlerReentry .tick) := by decide

/-- R42, R97: every result the handler's calls return is observed, in order (W7's results), set_target returning none. -/
theorem test_handler_results :
    (after (exec (.decHandlerWindow 0x18#8) (handled [.add 10#8, .setTarget 0 180, .add 11#8]))).map State.returns =
      some [(129750#32, .okIndex 1), (129750#32, .capacityExceeded)] := by decide

/-- W8, R173's example. -/
theorem test_pwm_fall :
    let s := { oneServo with ch := [{ servo with level := true, lastTransition := 18550#32 }], trace := [] }
    exec (.pwmFall 0 20050#32) s = .next s ∧
    (after (exec (.pwmFall 0 20100#32) { s with clock := 20100#32 })).map (fun t => (t.ch, t.trace)) =
      some ([{ servo with lastTransition := 20100#32 }], [(20100#32, .gpioWrite 9#8 false)]) := ⟨rfl, by decide⟩

/-- R174's example. -/
theorem test_pwm_rise :
    let s := { oneServo with trace := [] }
    exec (.pwmRise 0 18500#32) s = .next s ∧
    (after (exec (.pwmRise 0 18550#32) { s with clock := 18550#32 })).map (fun t => (t.ch, t.trace)) =
      some ([{ servo with level := true, lastTransition := 18550#32 }], [(18550#32, .gpioWrite 9#8 true)]) :=
  ⟨rfl, by decide⟩

/-- F7: an edge with a duration past the gap is recorded, and the level sampled (R120, R122). -/
theorem test_decoder_update :
    (after (exec (.decoderUpdate 10400#32 false) { midFrame with edgeRef := 350#32 })).map
        (fun s => (s.buf, s.bufIdx, s.rxState, s.prevLevel)) =
      some ([(0, 9000#32), (1, 10050#32)], 2, .receiving, false) := by decide

/-- P5, clock 900. -/
theorem test_receiving_dispatch :
    (after (exec (.receivingDispatch 900#32 true) { full with prevLevel := false })).map
        (fun s => (s.rxState, s.bufIdx, s.trace)) = some (.done, 1, [(900#32, .diagOverflow)]) := by decide

/-- P3, clock 20100: both channels fall, channel 0 written first. -/
theorem test_scheduler_update :
    let high := { servo with level := true, lastTransition := 18050#32 }
    (after (exec (.schedulerUpdate 20100#32) { oneServo with
        clock := 20100#32, trace := []
        ch := [{ high with pulseTime := 1000#16 }, { high with pin := 10#8, pulseTime := 2000#16 }] })).map State.trace =
      some [(20100#32, .gpioWrite 9#8 false), (20100#32, .gpioWrite 10#8 false)] := by decide

/-- K1, K3, and R118 with one fire missed. -/
theorem test_tick_clock :
    [(0#32, 0), (4294967276#32, 0), (0#32, 1)].map (fun p : U32 × Nat =>
        (after (exec (.tick true p.2) { State.reset with clock := p.1 })).map State.clock) =
      [some 50#32, some 30#32, some 100#32] := by decide

/-- P4, clock 78000 in small: the handler's target is seen by the scheduler update of the same pass. -/
theorem test_tick_handler_before_scheduler :
    (after (exec (.tick true 0) { handled [.setTarget 0 180] with
        ch := [{ servo with lastTransition := 111750#32 }] })).map (fun s => (s.clock, s.rxState, s.ch, s.trace.drop 2)) =
      some (129800#32, .idle, [{ servo with level := true, pulseTime := 2000#16, lastTransition := 129800#32 }],
        [(129800#32, .command 0x18#8), (129800#32, .gpioWrite 9#8 true)]) := by decide

/-- A word stored for the next step is run by it. -/
theorem test_fetch_word :
    (after (step (State.reset.withFetchWord 8 0))).map (fun s => (s.clock, s.rxState)) = some (50#32, .receiving) ∧
    returned (step (State.reset.withFetchWord 32 0xE718FF00)) = some (.command (some 0x18#8)) := by decide

/-! ### Witnesses: for each obligation with hypotheses, a state and operands that meet them -/

/-- An answer that is a next state. -/
theorem exists_of_after {o : Answer} (h : (after o).isSome = true) : ∃ t, o = .next t := by
  cases o with
  | next t => exact ⟨t, rfl⟩
  | fault r => cases h
  | refused r => cases h

/-- `DECODE` answers what Decode answers. -/
theorem necDecode_answers {s : State} {c : Option Command} (h : decodeNec s.cfg s.entries s.lastCmd = c) :
    exec (.necDecode s.entries s.lastCmd) s = .next { s with result := .command c } := by
  subst h; rfl

/-- A premise read off a list of one written slot. -/
theorem read_singleton {j k : Nat} {v w : U32} (h : Memory.read [(j, v)] k = some w) : k = j ∧ w = v := by
  unfold Memory.read at h
  split at h
  · next e => exact ⟨e.symm, (Option.some.inj h).symm⟩
  · cases h

theorem midFrame_inv : Inv midFrame where
  cfgLegal := by decide
  bufCanonical := by decide
  bufBounded := fun k v h => by rw [(read_singleton h).1]; decide
  bufIdxBounded := by decide
  bufWritten := by decide
  chCountBounded := by decide
  pulseRange := by decide
  pinsDistinct := by decide
  pinsNotIr := by decide
  levelsDriven := by decide
  phase := by decide
  durationBounded := by decide
  cacheKnown := fun c h => by cases h

theorem midFrame_grid : TickGrid midFrame where
  recorded := fun k v h => by rw [(read_singleton h).2]; exact ⟨180, rfl⟩
  measuring := fun _ => ⟨1, rfl⟩
  transitions := fun c h => by rw [List.mem_singleton.1 h]; exact ⟨186, rfl⟩
  phasesBounded := fun c h => by rw [List.mem_singleton.1 h]; decide

theorem oneServo_inv : Inv oneServo where
  cfgLegal := by decide
  bufCanonical := by decide
  bufBounded := fun k v h => by cases h
  bufIdxBounded := by decide
  bufWritten := by decide
  chCountBounded := by decide
  pulseRange := by decide
  pinsDistinct := by decide
  pinsNotIr := by decide
  levelsDriven := by decide
  phase := by decide
  durationBounded := by decide
  cacheKnown := fun c h => by cases h

/-- A recorded 9002 is off the grid of 50. -/
theorem test_off_grid : ¬OnGrid defaultConfig 9002#32 := by
  rintro ⟨n, h⟩
  have h : 9002 = 50 * n := h
  omega

/-- StepKeepsInvariant, StepKeepsTickGrid, ConfigurationIsConstant, TraceOnlyGrows: the invariants in mid-frame, a pending
normative tick, and a step that answers a next state. -/
theorem witness_step_invariants :
    Inv midFrame ∧ TickGrid midFrame ∧
    (∀ r rest, midFrame.inbox = .op r :: rest → r.opCode = 0#3 → (r.missed + 1) * midFrame.cfg.tickUs < 2 ^ 31) ∧
    ∃ t, step midFrame = .next t ∧ t.bufIdx = 2 := by
  refine ⟨midFrame_inv, midFrame_grid, ?_, _, rfl, rfl⟩
  intro r rest h _
  cases h
  decide

/-- StepKeepsTickGrid's bound on the pending advance at its edge: `TICK_US` = `2^31` − 1 meets it, `2^31` does not. -/
theorem witness_advance_bound :
    (OpRequest.zero.missed + 1) * (2 ^ 31 - 1) < 2 ^ 31 ∧ ¬((OpRequest.zero.missed + 1) * 2 ^ 31 < 2 ^ 31) := by decide

/-- SymbolRowsMatchTheirReference at its corners: `TOL_PCT` 100 with a mark below `COMP_US` (R140: compared as 0), e = 0
(R142: the window is 0 alone), and a saturated space (R141, R144). -/
theorem test_match_corners :
    returned (exec (.matchesMark 50#32 560) (resetWith { defaultConfig with tolPct := 100 })) = some (.truth true) ∧
    [100#32, 101#32].map (fun d => returned (exec (.matchesMark d 0) State.reset)) =
      [some (.truth true), some (.truth false)] ∧
    returned (exec (.matchesSpace 4294967295#32 4294967295) State.reset) = some (.truth true) := by decide

/-- StepRunsTheDecodedStimulus: a legal configuration and each kind of stimulus. -/
theorem witness_step_decodes :
    State.reset.cfg.legal = true ∧ State.reset.inbox = [] ∧
    (∃ st rest, midFrame.inbox = st :: rest ∧ decode midFrame.cfg st = .instr (.tick false 0)) ∧
    decode midFrame.cfg (.op { OpRequest.zero with opCode := 5#3 }) = .rejected .noOperation ∧
    decode midFrame.cfg (.op { OpRequest.zero with opCode := 7#3 }) = .rejected .noOperation ∧
    decode midFrame.cfg (.entry 0 6849#32) = .rejected .noSymbol ∧
    decode midFrame.cfg (.frame [9000#32]) = .rejected .noFrame :=
  ⟨by decide, rfl, ⟨_, _, rfl, by decide⟩, by decide, by decide, by decide, by decide⟩

/-- ResetPortResets. -/
theorem witness_rst :
    let s := { midFrame with inbox := [.rst, .payload 0#32] }
    s.cfg.legal = true ∧ s.inbox = .rst :: [.payload 0#32] := by decide

/-- IllegalConfigurationRefused: each of its disjuncts at its boundary, and that the defaults meet none. -/
theorem witness_illegal_config :
    (resetWith { defaultConfig with bufCapacity := 0 }).cfg.bufCapacity = 0 ∧
    (resetWith { defaultConfig with tickUs := 0 }).cfg.tickUs = 0 ∧
    100 < (resetWith { defaultConfig with tolPct := 101 }).cfg.tolPct ∧
    2 ^ 32 ≤ (resetWith { defaultConfig with compUs := 2 ^ 32 }).cfg.compUs ∧
    0x18#8 ∉ (resetWith { defaultConfig with cmdTable := [] }).cfg.cmdTable ∧
    (resetWith { defaultConfig with bufCapacity := 1, tickUs := 1, tolPct := 100, compUs := 2 ^ 32 - 1 }).cfg.legal = true := by
  decide

/-- DecodeOfEncode, EncodeOfDecode. -/
theorem witness_encode_decode :
    (wellFormed defaultConfig (.setTarget 65535 (-32768)) = true ∧ (encode (.setTarget 65535 (-32768))).isSome = true) ∧
    (wellFormed defaultConfig (.hdrSpace 5525#32) = true ∧ encode (.hdrSpace 5525#32) = some (.entry 1 5525#32)) ∧
    decode defaultConfig (.payload 0xE718FF00#32) = .instr (.cmdUp 0x00#8 0xFF#8) ∧
    decode defaultConfig (.frame [9000#32, 2250#32, 560#32]) = .instr (.repeatFrame [9000#32, 2250#32, 560#32]) := by
  decide

/-- EvaluationLeavesTheBlockAlone: one stimulus of each kind. -/
theorem witness_evaluation :
    let s := fun st : Stimulus => { midFrame with inbox := [st] }
    (s (.payload 0#32)).cfg.legal = true ∧ (s (.payload 0#32)).inbox = .payload 0#32 :: [] ∧
    (s (.entry 0 0#32)).inbox = .entry 0 0#32 :: [] ∧ (s (.frame [])).inbox = .frame [] :: [] := by decide

/-- SymbolWindowsAtDefaults, and the configuration of ExpansionsRoundTrip. -/
theorem witness_default_parameters :
    State.reset.cfg.tolPct = 25 ∧ State.reset.cfg.compUs = 100 ∧ 0x18#8 ∈ State.reset.cfg.cmdTable ∧
    State.reset.cfg.legal = true ∧ 0x19#8 ∉ State.reset.cfg.cmdTable := by decide

/-- MatchesAreIntervals, at the defaults and at the largest sum below `2^32`. -/
theorem witness_intervals :
    (State.reset.cfg.tolPct < 100 ∧ 0 < 560 ∧ 560 * (100 + State.reset.cfg.tolPct) / 100 + State.reset.cfg.compUs < 2 ^ 32) ∧
    (let s := resetWith { defaultConfig with tolPct := 0, compUs := 2 ^ 32 - 2 }
     s.cfg.tolPct < 100 ∧ 0 < 1 ∧ 1 * (100 + s.cfg.tolPct) / 100 + s.cfg.compUs < 2 ^ 32) := by decide

/-- WindowBoundsAreExact. -/
theorem witness_window_bounds :
    State.reset.cfg.tolPct ≤ 100 ∧ (resetWith { defaultConfig with tolPct := 100 }).cfg.tolPct ≤ 100 := by decide

/-- RepeatFrameYieldsTheCache: a repeat frame, and candidates that are none, by length and by the third entry. -/
theorem witness_repeat_frame :
    matchesMark State.reset.cfg 9000#32 9000 = true ∧ matchesSpace State.reset.cfg 2250#32 2250 = true ∧
    matchesMark State.reset.cfg 560#32 560 = true ∧
    (∀ b, ([] : List U32) = [b] → matchesMark State.reset.cfg b 560 = false) ∧
    (∀ b, [560#32, 560#32] = [b] → matchesMark State.reset.cfg b 560 = false) ∧
    (∀ b, [801#32] = [b] → matchesMark State.reset.cfg b 560 = false) := by
  refine ⟨by decide, by decide, by decide, ?_, ?_, ?_⟩
  · intro b h; cases h
  · intro b h; cases h
  · intro b h; cases h; decide

/-- HeaderAndLengthFailuresAreUnknown: each disjunct. -/
theorem witness_header_failures :
    ([9000#32] : List U32).length < 2 ∧
    matchesMark State.reset.cfg ([6849#32, 2250#32].getD 0 0) 9000 = false ∧
    (matchesSpace State.reset.cfg ([9000#32, 3000#32].getD 1 0) 2250 = false ∧
      matchesSpace State.reset.cfg ([9000#32, 3000#32].getD 1 0) 4500 = false) ∧
    (matchesSpace State.reset.cfg (((nominalFrame 0#32).take 65).getD 1 0) 2250 = false ∧
      ((nominalFrame 0#32).take 65).length < 66) := by decide +kernel

/-- OneBadBitAborts: the first bit's mark, the last bit's space. -/
theorem witness_bad_bit :
    (0 < 32 ∧ 3 ≠ ((nominalFrame 0#32).set 2 519#32).length ∧
      matchesMark State.reset.cfg (((nominalFrame 0#32).set 2 519#32).getD (2 + 2 * 0) 0) 560 = false) ∧
    (31 < 32 ∧ 3 ≠ ((nominalFrame 0#32).set 65 601#32).length ∧
      matchesSpace State.reset.cfg (((nominalFrame 0#32).set 65 601#32).getD (3 + 2 * 31) 0) 1690 = false ∧
      matchesSpace State.reset.cfg (((nominalFrame 0#32).set 65 601#32).getD (3 + 2 * 31) 0) 560 = false) := by
  decide +kernel

/-- The hypotheses on the entries of a data frame, for the frame of a payload. -/
theorem nominal_entries (v : BitVec 32) (hv : v = 0xE718FF00#32 ∨ v = 0xE618FF00#32) :
    66 ≤ (nominalFrame v).length ∧ matchesMark State.reset.cfg ((nominalFrame v).getD 0 0) 9000 = true ∧
    matchesSpace State.reset.cfg ((nominalFrame v).getD 1 0) 2250 = false ∧
    matchesSpace State.reset.cfg ((nominalFrame v).getD 1 0) 4500 = true ∧
    (∀ k, k < 32 → matchesMark State.reset.cfg ((nominalFrame v).getD (2 + 2 * k) 0) 560 = true) ∧
    (∀ k, k < 32 → matchesSpace State.reset.cfg ((nominalFrame v).getD (3 + 2 * k) 0) 1690 = true ∨
      matchesSpace State.reset.cfg ((nominalFrame v).getD (3 + 2 * k) 0) 560 = true) ∧
    (∀ k, k < 32 → v.getLsbD k = matchesSpace State.reset.cfg ((nominalFrame v).getD (3 + 2 * k) 0) 1690) := by
  rcases hv with rfl | rfl <;> decide +kernel

/-- DataFrameYieldsItsPayload, EntriesFrom66AreIgnored. -/
theorem witness_data_frame :
    66 ≤ (nominalFrame 0xE718FF00#32).length ∧
    (∀ k, k < 32 → matchesMark State.reset.cfg ((nominalFrame 0xE718FF00#32).getD (2 + 2 * k) 0) 560 = true) ∧
    (∀ k, k < 32 → (0xE718FF00#32).getLsbD k =
      matchesSpace State.reset.cfg ((nominalFrame 0xE718FF00#32).getD (3 + 2 * k) 0) 1690) :=
  ⟨(nominal_entries _ (.inl rfl)).1, (nominal_entries _ (.inl rfl)).2.2.2.2.1, (nominal_entries _ (.inl rfl)).2.2.2.2.2.2⟩

/-- ChecksumFailuresAreUnknown: all its hypotheses, for a payload whose command bytes are no complements. -/
theorem witness_checksum :
    let v := 0xE618FF00#32
    let es := nominalFrame v
    matchesSpace State.reset.cfg (es.getD 1 0) 2250 = false ∧
    (∀ k, k < 32 → matchesMark State.reset.cfg (es.getD (2 + 2 * k) 0) 560 = true ∧
      (v.getLsbD k = true ∧ matchesSpace State.reset.cfg (es.getD (3 + 2 * k) 0) 1690 = true ∨
        v.getLsbD k = false ∧ matchesSpace State.reset.cfg (es.getD (3 + 2 * k) 0) 1690 = false ∧
          matchesSpace State.reset.cfg (es.getD (3 + 2 * k) 0) 560 = true)) ∧
    (v.extractLsb' 0 8 ≠ ~~~(v.extractLsb' 8 8) ∨ v.extractLsb' 16 8 ≠ ~~~(v.extractLsb' 24 8)) := by
  decide +kernel

/-- RepeatKeepsTheCache, TickInDone on a known command: without a handler, with one that calls nothing, with one that
sets a target. -/
theorem witness_repeat_done :
    repeatDone.entries = [9000#32, 2250#32, 550#32] ∧ repeatDone.lastCmd = some 0x18#8 ∧
    matchesMark repeatDone.cfg 9000#32 9000 = true ∧ matchesSpace repeatDone.cfg 2250#32 2250 = true ∧
    matchesMark repeatDone.cfg 550#32 560 = true ∧ repeatDone.rxState = .done ∧ repeatDone.handlerSet = false ∧
    (∃ t, exec .decDone repeatDone = .next t) :=
  ⟨by decide, rfl, by decide, by decide, by decide, rfl, rfl, _, rfl⟩

/-- DoneArmAnnouncesAKnownCommand, TickInDone, CommandsComeOnlyFromDone: `Unknown`, a known command, and the handlers. -/
theorem witness_done_results :
    (repeatDoneEmpty.rxState = .done ∧
      exec (.necDecode repeatDoneEmpty.entries repeatDoneEmpty.lastCmd) repeatDoneEmpty =
        .next { repeatDoneEmpty with result := .command none } ∧
      decodeNec repeatDoneEmpty.cfg repeatDoneEmpty.entries repeatDoneEmpty.lastCmd = none) ∧
    (repeatDone.rxState = .done ∧
      exec (.necDecode repeatDone.entries repeatDone.lastCmd) repeatDone =
        .next { repeatDone with result := .command (some 0x18#8) } ∧
      decodeNec repeatDone.cfg repeatDone.entries repeatDone.lastCmd = some 0x18#8) ∧
    ((handled []).handlerSet = true ∧ handlerCalls (handled []).handler 0x18#8 = [] ∧
      decodeNec (handled []).cfg (handled []).entries (handled []).lastCmd = some 0x18#8) ∧
    ((handled [.setTarget 0 180]).ch[0]? = some servo ∧
      handlerCalls (handled [.setTarget 0 180]).handler 0x18#8 = [.setTarget 0 180]) ∧
    (State.reset.rxState ≠ .done ∧ ∃ t, exec (.tick true 0) State.reset = .next t) ∧
    (∃ t, exec (.tick true 0) repeatDone = .next t) :=
  ⟨⟨rfl, necDecode_answers (by decide), by decide⟩, ⟨rfl, necDecode_answers (by decide), by decide⟩,
    ⟨rfl, rfl, by decide⟩, ⟨rfl, rfl⟩, ⟨by decide, exists_of_after (by decide)⟩, exists_of_after (by decide)⟩

/-- HandlerWindowRunsHostOperations: the window closed, its calls, targets only, and a forbidden call, first and after others. -/
theorem witness_handler_window :
    ¬(State.reset.rxState = .done ∧ State.reset.handlerSet = true) ∧
    ((handled []).rxState = .done ∧ (handled []).handlerSet = true) ∧
    handlerCalls (handled [.setTarget 0 180, .add 10#8]).handler 0x18#8 =
      ([.inl (0, 180), .inr 10#8] : List (Int × Int ⊕ PinId)).map (Sum.elim (fun a => .setTarget a.1 a.2) .add) ∧
    handlerCalls (handled [.setTarget 0 180]).handler 0x18#8 = [(0, 180)].map (fun a : Int × Int => .setTarget a.1 a.2) ∧
    handlerCalls (handled [.forbidden .tick, .add 3#8]).handler 0x18#8 =
      ([] : List (Int × Int ⊕ PinId)).map (Sum.elim (fun a => .setTarget a.1 a.2) .add) ++ .forbidden .tick :: [.add 3#8] ∧
    handlerCalls (handled [.add 10#8, .setTarget 0 0, .forbidden .tick]).handler 0x18#8 =
      ([.inr 10#8, .inl (0, 0)] : List (Int × Int ⊕ PinId)).map (Sum.elim (fun a => .setTarget a.1 a.2) .add)
        ++ .forbidden .tick :: [] := by decide

/-- ConfigureAllocatesOnce, AddAppendsAChannel, AddToAFullTableFails, AddRefusesSharedPins. -/
theorem witness_table_operations :
    (0 < 1 ∧ State.reset.chCapacity = 0) ∧ (0 < 1 ∧ 0 < oneServo.chCapacity) ∧
    (let s := { oneServo with chCapacity := 2 }
     s.ch.length < s.chCapacity ∧ 10#8 ≠ s.cfg.irPin ∧ (∀ c ∈ s.ch, c.pin ≠ 10#8) ∧
      (∃ c ∈ s.ch, c.pin = 9#8) ∧ 9#8 ≠ s.cfg.irPin ∧ s.cfg.irPin = 0xFF#8) ∧
    oneServo.chCapacity ≤ oneServo.ch.length ∧ State.reset.chCapacity ≤ State.reset.ch.length := by decide

/-- SetTargetWritesOnePulseTime, PulseTimesAreClamped at both ends, SetTargetOutOfRangeIsSilent at both ends. -/
theorem witness_targets :
    oneServo.ch[0]? = some servo ∧ (0 : Int) ≤ 0 ∧ (180 : Int) ≤ 180 ∧ (-1 : Int) < 0 ∧
    (oneServo.ch.length : Int) ≤ 1 := by decide

/-- OnReceiveReplacesTheHandler. -/
theorem witness_on_receive :
    ∃ t u, exec (.onReceive []) State.reset = .next t ∧ exec (.onReceive [(0x18#8, [])]) t = .next u := ⟨_, _, rfl, rfl⟩

/-- IdleArmStartsAFrame, TickInIdle: the edge, and no edge. -/
theorem witness_idle :
    (State.reset.rxState = .idle ∧ State.reset.prevLevel = true) ∧
    ¬(State.reset.rxState = .idle ∧ State.reset.prevLevel = true ∧ true = false) := by decide

/-- ReceivingArmsUnderTheirGuards, AppendWritesOneSlot, ReceivingDispatchesToOneArm, TickInReceiving: each guard met, and
at its threshold not met. -/
theorem witness_receiving :
    (inMark.rxState = .receiving ∧ true ≠ inMark.prevLevel ∧ inMark.bufIdx < inMark.cfg.bufCapacity ∧ Memory.wf inMark.buf) ∧
    (full.rxState = .receiving ∧ false ≠ full.prevLevel ∧ full.bufIdx = full.cfg.bufCapacity ∧
      full.bufIdx ≤ full.cfg.bufCapacity) ∧
    (midFrame.rxState = .receiving ∧ true = midFrame.prevLevel ∧ 10000 < (19251#32 - midFrame.edgeRef).toNat ∧
      ¬(10000 < (19250#32 - midFrame.edgeRef).toNat)) ∧
    (false = inMark.prevLevel ∧ 9000 * (100 + inMark.cfg.tolPct) / 100 < (11501#32 - inMark.edgeRef).toNat ∧
      ¬(9000 * (100 + inMark.cfg.tolPct) / 100 < (11500#32 - inMark.edgeRef).toNat)) := by decide

/-- DecoderUpdateRunsOneArmThenSamples: outside `Done`, in `Done` without a handler, in `Done` with one. -/
theorem witness_decoder_update :
    (midFrame.rxState = .done → midFrame.handlerSet = false) ∧ (repeatDone.rxState = .done → repeatDone.handlerSet = false) ∧
    (∃ t, exec (.decoderUpdate 129800#32 true) (handled [.setTarget 0 0]) = .next t) :=
  ⟨by decide, by decide, _, rfl⟩

/-- FallArmDrivesLow, RiseArmDrivesHigh: due one microsecond over the threshold, not at it. -/
theorem witness_scheduler_arms :
    oneServo.ch[0]? = some servo ∧
    (let c := { servo with level := true }
     c.level = true ∧ c.pulseTime.toNat < (1501#32 - c.lastTransition).toNat ∧
      ¬(c.pulseTime.toNat < (1500#32 - c.lastTransition).toNat)) ∧
    (servo.level = false ∧ (20000 : Int) - servo.pulseTime.toNat < (18501#32 - servo.lastTransition).toNat ∧
      ¬((20000 : Int) - servo.pulseTime.toNat < (18500#32 - servo.lastTransition).toNat)) := by decide

/-- SchedulerUpdateTurnsEveryChannel: a record whose turn writes, one whose turn does not, and an index without one. -/
theorem witness_scheduler :
    (∃ u, exec (.pwmRise 0 18550#32) oneServo = .next u ∧ u ≠ oneServo) ∧
    (∃ u, exec (.pwmFall 0 1501#32) { oneServo with ch := [{ servo with level := true }] } = .next u ∧
      u ≠ { oneServo with ch := [{ servo with level := true }] }) ∧
    exec (.pwmFall 0 50#32) oneServo = .next oneServo ∧ exec (.pwmRise 0 50#32) oneServo = .next oneServo ∧
    oneServo.ch.length ≤ 1 :=
  ⟨⟨_, rfl, by decide⟩, ⟨_, rfl, by decide⟩, rfl, rfl, by decide⟩

/-- OnlyTicksAdvanceTheClock: a tick, another row, and a run of ticks that answer. -/
theorem witness_clock :
    (∃ t, exec (.tick true 3) midFrame = .next t) ∧
    (∃ t, exec (.setTarget 0 90) midFrame = .next t ∧ ∀ irIn missed, Instr.setTarget 0 90 ≠ .tick irIn missed) ∧
    (∃ t, runTicks [true, false, true] midFrame = .next t) :=
  ⟨⟨_, rfl⟩, ⟨_, rfl, fun _ _ h => by cases h⟩, _, rfl⟩

/-- PassesFailOnlyInTheHandler: each way to fail, and a handler that only sets targets. -/
theorem witness_pass_fails :
    refusal (exec (.tick true 0) (handled [.setTarget 0 0, .forbidden .configure])) = some (.handlerReentry .configure) ∧
    refusal (exec (.tick true 0) (handled [.add 9#8])) = some .pinInUse ∧
    refusal (exec (.tick true 0) (handled [.add 0xFF#8])) = some .pinIsIrPin ∧
    onlySetsTargets (handled [.setTarget 0 0, .setTarget 7 7]).handler 0x18#8 = true := by decide

/-- StateHasOneOwner: an operation of each machine that changes its own state. -/
theorem witness_owner :
    (∃ t, exec (.configure 3) State.reset = .next t ∧ t ≠ State.reset) ∧
    (∃ t, exec (.decRxAppend 9500#32 false) midFrame = .next t ∧ t ≠ midFrame) :=
  ⟨⟨_, rfl, by decide⟩, _, rfl, by decide⟩

/-- MachinesDoNotInterfere: two states that share the decoder's state and differ in the table, and two the other way. -/
theorem witness_interference :
    (let s := midFrame
     let s' := { midFrame with ch := [], chCapacity := 0 }
     s.handlerSet = false ∧ s'.handlerSet = false ∧ s.cfg = s'.cfg ∧ s.clock = s'.clock ∧ s.buf = s'.buf ∧ s.ch ≠ s'.ch) ∧
    (let s := midFrame
     let s' := { repeatDone with clock := midFrame.clock, ch := midFrame.ch }
     s'.handlerSet = false ∧ s.cfg = s'.cfg ∧ s.clock = s'.clock ∧ s.ch = s'.ch ∧ s.rxState ≠ s'.rxState) ∧
    (∃ t, exec (.tick false 0) midFrame = .next t) :=
  ⟨by decide, by decide, _, rfl⟩

/-- UnwrittenSlotsNeverMatter, ReceivingEnds: the invariant in `Receiving`, the tick period, enough levels. -/
theorem witness_receiving_ends :
    Inv midFrame ∧ midFrame.rxState = .receiving ∧ midFrame.cfg.tickUs < 2 ^ 31 ∧
    (midFrame.cfg.bufCapacity + 1) * (max frameGapUs (markAbortUs midFrame.cfg) / midFrame.cfg.tickUs + 1) ≤
      (List.replicate 58082 true).length :=
  ⟨midFrame_inv, rfl, by decide, by rw [List.length_replicate]; decide⟩

/-- One servo whose high phase begins now. -/
def highServo : State :=
  { oneServo with ch := [{ servo with level := true }], trace := oneServo.trace ++ [(0#32, .gpioWrite 9#8 true)] }

theorem highServo_inv : Inv highServo where
  cfgLegal := by decide
  bufCanonical := by decide
  bufBounded := fun k v h => by cases h
  bufIdxBounded := by decide
  bufWritten := by decide
  chCountBounded := by decide
  pulseRange := by decide
  pinsDistinct := by decide
  pinsNotIr := by decide
  levelsDriven := by decide
  phase := by decide
  durationBounded := by decide
  cacheKnown := fun c h => by cases h

/-- In mid-frame, a low phase that begins now. -/
def midFramePhase : State := { midFrame with ch := [{ servo with lastTransition := 9300#32 }] }

theorem midFramePhase_inv : Inv midFramePhase where
  cfgLegal := by decide
  bufCanonical := by decide
  bufBounded := fun k v h => by rw [(read_singleton h).1]; decide
  bufIdxBounded := by decide
  bufWritten := by decide
  chCountBounded := by decide
  pulseRange := by decide
  pinsDistinct := by decide
  pinsNotIr := by decide
  levelsDriven := by decide
  phase := by decide
  durationBounded := by decide
  cacheKnown := fun c h => by cases h

/-- PhasesLastOneTickOverTheirThreshold: a low phase in `Idle`, a high one, and a low one in `Receiving`, each with levels of
the two lengths at its end (R176: 18550 µs low, 1550 µs high). -/
theorem witness_phases :
    (Inv oneServo ∧ oneServo.handlerSet = false ∧ oneServo.cfg.tickUs < 2 ^ 31 ∧ oneServo.ch[0]? = some servo ∧
      servo.lastTransition = oneServo.clock ∧
      (List.replicate 370 true).length ≤ (pwmPeriodUs - servo.pulseTime.toNat) / oneServo.cfg.tickUs ∧
      (List.replicate 371 true).length = (pwmPeriodUs - servo.pulseTime.toNat) / oneServo.cfg.tickUs + 1) ∧
    (Inv highServo ∧ highServo.handlerSet = false ∧ highServo.cfg.tickUs < 2 ^ 31 ∧
      highServo.ch[0]? = some { servo with level := true } ∧ servo.lastTransition = highServo.clock ∧
      (List.replicate 30 false).length ≤ servo.pulseTime.toNat / highServo.cfg.tickUs ∧
      (List.replicate 31 false).length = servo.pulseTime.toNat / highServo.cfg.tickUs + 1) ∧
    (Inv midFramePhase ∧ midFramePhase.rxState = .receiving ∧ midFramePhase.handlerSet = false ∧
      midFramePhase.ch[0]? = some { servo with lastTransition := midFramePhase.clock }) := by
  refine ⟨⟨oneServo_inv, rfl, by decide, rfl, rfl, ?_, ?_⟩, ⟨highServo_inv, rfl, by decide, rfl, rfl, by decide, by decide⟩,
    midFramePhase_inv, rfl, rfl, rfl⟩ <;> rw [List.length_replicate] <;> decide

/-- WaveformsAreRecorded: a mark, a space and a mark, each of the largest length that is recorded (11300, 10050, 11300:
95_test_vectors.md F5, F7). -/
theorem witness_waveform :
    State.reset.cfg.legal = true ∧ State.reset.rxState = .idle ∧ State.reset.prevLevel = true ∧
    State.reset.cfg.tickUs < 2 ^ 31 ∧ [226, 201, 226].length % 2 = 1 ∧
    [226, 201, 226].length ≤ State.reset.cfg.bufCapacity ∧
    (∀ k n, [226, 201, 226][k]? = some n →
      1 ≤ n ∧ (n - 1) * State.reset.cfg.tickUs ≤ if k % 2 = 0 then markAbortUs State.reset.cfg else frameGapUs) := by
  refine ⟨by decide, rfl, rfl, by decide, by decide, by decide, fun k n h => ?_⟩
  match k, h with
  | 0, h => cases h; decide
  | 1, h => cases h; decide
  | 2, h => cases h; decide
  | _ + 3, h => cases h

end Sys2Proof.Tests
end

/-! The family of 40_clock_tick.md: the clock, and the whole next state of a tick in each state of the decoder. -/

namespace Sys2Proof.Machine

open Host (Outcome)

/-! ### The parts of a pass, case by case -/

/-- R110, R112: the clock's advance, the decoder update, the scheduler update, both at the clock read once. -/
theorem exec_tick (s : State) (irIn : Bool) (missed : Nat) :
    exec (.tick irIn missed) s =
      andThen (decoderUpdate (s.advanceClock (missed + 1)).clock irIn (s.advanceClock (missed + 1)))
        (fun t => .next (schedulerUpdate (s.advanceClock (missed + 1)).clock t)) := rfl

/-- Settles O60: the composition of `exec_tick`, its two parts being the rows `DECODER_UPDATE` and `SCHEDULER_UPDATE`. -/
theorem tickRunsItsPartsInOrder : Obligations.TickRunsItsPartsInOrder := exec_tick

theorem decoderUpdate_idle {now : U32} {level : Bool} {s : State} (h : s.rxState = .idle) :
    decoderUpdate now level s = .next ((idleArm now level s).sample level) := by
  simp only [decoderUpdate, h]

theorem decoderUpdate_receiving {now : U32} {level : Bool} {s : State} (h : s.rxState = .receiving) :
    decoderUpdate now level s = .next ((receivingArm now level s).sample level) := by
  simp only [decoderUpdate, h]

theorem decoderUpdate_done {now : U32} {level : Bool} {s : State} (h : s.rxState = .done) :
    decoderUpdate now level s = andThen (doneArm s) (fun t => .next (t.sample level)) := by
  simp only [decoderUpdate, h]

theorem doneArm_unknown {s : State} (h : decodeNec s.cfg s.entries s.lastCmd = none) :
    doneArm s = .next (leaveDone s) := by
  simp only [doneArm, h]

theorem doneArm_unhandled {s : State} {c : Command} (h : decodeNec s.cfg s.entries s.lastCmd = some c)
    (hs : s.handlerSet = false) : doneArm s = .next (leaveDone (announceCommand c s)) := by
  simp [doneArm, h, hs]

theorem doneArm_handled {s : State} {c : Command} (h : decodeNec s.cfg s.entries s.lastCmd = some c)
    (hs : s.handlerSet = true) :
    doneArm s = andThen (handlerWindow c (announceCommand c s)) (fun t => .next (leaveDone t)) := by
  simp [doneArm, h, hs]

/-- `DEC_HANDLER_WINDOW` inside its window (R129). -/
theorem exec_decHandlerWindow {c : Command} {s : State} (hd : s.rxState = .done) (hs : s.handlerSet = true) :
    exec (.decHandlerWindow c) s = handlerWindow c s := if_pos ⟨hd, hs⟩

/-- A target for a record that exists (R172). -/
theorem setTargetOp_of_getElem? {s : State} {k : Nat} {x : Channel} (v : Int) (h : s.ch[k]? = some x) :
    setTargetOp k v s = { s with ch := s.ch.set k { x with pulseTime := pulseOf v }, result := .nothing } := by
  have hk : k < s.ch.length := (List.getElem?_eq_some_iff.1 h).1
  have hin : ¬((k : Int) < 0 ∨ (s.ch.length : Int) ≤ k) := by omega
  rw [setTargetOp, if_neg hin, Int.toNat_natCast, setPulse_eq _ h]
  rfl

/-! ### What leaves the clock alone (R111) -/

theorem receivingArm_clock (now : U32) (level : Bool) (s : State) : (receivingArm now level s).clock = s.clock := by
  rcases receivingArm_cases now level s with ⟨-, -, e⟩ | ⟨-, -, e⟩ | ⟨-, -, -, e⟩ | ⟨-, -, -, e⟩ | ⟨-, -, e⟩ <;>
    simp [e]

theorem handlerWindow_clock {c : Command} {s t : State} (h : handlerWindow c s = .next t) : t.clock = s.clock := by
  rw [runCalls_frame h]

theorem doneArm_clock {s t : State} (h : doneArm s = .next t) : t.clock = s.clock := by
  rcases doneArm_next h with ⟨-, rfl⟩ | ⟨c, -, -, rfl⟩ | ⟨c, u, -, -, hu, rfl⟩
  · rfl
  · rfl
  · rw [runCalls_frame hu]
    rfl

theorem fallArm_clock (k : Nat) (now : U32) (s : State) : (fallArm k now s).clock = s.clock := by
  unfold fallArm
  split
  · rfl
  · split <;> rfl

theorem riseArm_clock (k : Nat) (now : U32) (s : State) : (riseArm k now s).clock = s.clock := by
  unfold riseArm
  split
  · rfl
  · split <;> rfl

theorem configureOp_clock {n : Nat} {s t : State} (h : configureOp n s = .next t) : t.clock = s.clock := by
  rcases configureOp_cases n s with ⟨-, e⟩ | ⟨-, -, e⟩ | ⟨-, -, e⟩ <;> rw [e] at h <;> cases h <;> rfl

theorem addOp_clock {p : PinId} {s t : State} (h : addOp p s = .next t) : t.clock = s.clock := by
  rw [runCall_frame (op := .add p) h]

/-- An arm under its guard keeps the clock if its effect does. -/
theorem guarded_clock {g : Prop} [Decidable g] {s t u : State} (hu : u.clock = s.clock)
    (h : (.next (if g then u else s) : Answer) = .next t) : t.clock = s.clock := by
  rw [← Outcome.next.inj h]
  split
  · exact hu
  · rfl

/-- What a stimulus runs besides a tick keeps the clock. -/
theorem exec_stimulus_clock {i : Instr} {s t : State} (hi : i.internal = false)
    (hne : ∀ irIn missed, i ≠ .tick irIn missed) (h : exec i s = .next t) : t.clock = s.clock := by
  rcases exec_evaluates hi h with ⟨r, rfl⟩ | ⟨a, b, e, -⟩ | ⟨n, -, h⟩ | ⟨p, -, h⟩ | ⟨k, v, -, rfl⟩ | ⟨g, -, rfl⟩
  · rfl
  · exact absurd e (hne a b)
  · exact configureOp_clock h
  · exact addOp_clock h
  · exact setTargetOp_clock s k v
  · rfl

/-- A part of a pass, run alone, keeps the clock: the advance is the tick's own. -/
theorem exec_internal_clock {i : Instr} {s t : State} (hi : i.internal = true) (h : exec i s = .next t) :
    t.clock = s.clock := by
  cases i with
  | decIdleStart | decRxAppend | decRxOverflow | decRxFrameEnd | decRxNoiseAbort =>
    refine guarded_clock ?_ h
    rfl
  | decDone =>
    simp only [exec, execDecDone] at h
    split at h
    · exact doneArm_clock h
    · exact Outcome.next.inj h ▸ rfl
  | decHandlerWindow c =>
    simp only [exec, execDecHandlerWindow] at h
    split at h
    · exact handlerWindow_clock h
    · exact Outcome.next.inj h ▸ rfl
  | pwmFall k now => exact Outcome.next.inj h ▸ fallArm_clock k now s
  | pwmRise k now => exact Outcome.next.inj h ▸ riseArm_clock k now s
  | decoderUpdate now level =>
    obtain ⟨-, hclock, -⟩ := decoderUpdate_frame h
    exact hclock
  | receivingDispatch now level => exact Outcome.next.inj h ▸ receivingArm_clock now level s
  | schedulerUpdate now => exact Outcome.next.inj h ▸ schedulerUpdate_clock now s
  | compMark | compSpace | inWindow | matchesMark | matchesSpace | necDecode => exact Outcome.next.inj h ▸ rfl
  | _ => cases hi

/-! ### The clock (R111) -/

theorem exec_tick_cfg_clock {irIn : Bool} {missed : Nat} {s t : State} (h : exec (.tick irIn missed) s = .next t) :
    t.cfg = s.cfg ∧ t.clock = s.clock + BitVec.ofNat 32 ((missed + 1) * s.cfg.tickUs) := by
  obtain ⟨u, hu, rfl⟩ := tickPass_next h
  obtain ⟨hcfg, hclock, -⟩ := decoderUpdate_frame hu
  exact ⟨(schedulerUpdate_cfg _ u).trans hcfg, (schedulerUpdate_clock _ u).trans hclock⟩

/-- `k` normative ticks advance the clock `k` times, whatever the levels. -/
theorem runTicks_clock {levels : List Bool} {s t : State} (h : runTicks levels s = .next t) :
    t.clock = s.clock + BitVec.ofNat 32 (levels.length * s.cfg.tickUs) := by
  induction levels generalizing s with
  | nil => simp [Outcome.next.inj h]
  | cons level levels ih =>
    obtain ⟨u, hu, ht⟩ := andThen_eq_next.1 h
    obtain ⟨hcfg, hclock⟩ := exec_tick_cfg_clock hu
    rw [ih ht, hcfg, hclock, BitVec.add_assoc, ← BitVec.ofNat_add, ← Nat.add_mul, List.length_cons]
    congr 3
    omega

theorem toNat_add_ofNat (x : U32) (n : Nat) : (x + BitVec.ofNat 32 n).toNat = (x.toNat + n) % 2 ^ 32 := by
  rw [BitVec.toNat_add, BitVec.toNat_ofNat, Nat.add_mod_mod]

/-- Settles O46: a tick by the frames of its two updates, the other rows by whether a stimulus or only a pass runs them,
a run of ticks by induction on its levels. -/
theorem onlyTicksAdvanceTheClock : Obligations.OnlyTicksAdvanceTheClock := by
  refine ⟨fun s t irIn missed h => ?_, fun s t i hne h => ?_, fun s t levels h => ?_⟩
  · obtain ⟨-, hclock⟩ := exec_tick_cfg_clock h
    rw [hclock, toNat_add_ofNat]
  · cases hi : i.internal with
    | false => exact exec_stimulus_clock hi hne h
    | true => exact exec_internal_clock hi h
  · rw [runTicks_clock h, toNat_add_ofNat]

/-! ### The tick as its decoder update and the channels' turns -/

/-- Every channel turned at `now`, its write stamped with `now` (R173 to R175). -/
def turnChannels (now : U32) (s : State) : State :=
  { s with
    ch := s.ch.map (turned now)
    trace := s.trace ++ (turnEvents now s.ch).map (fun e => (now, e)) }

/-- The scheduler update run at the clock the state holds, as in a pass (D14). -/
theorem schedulerUpdate_of_clock {now : U32} {s : State} (h : s.clock = now) :
    schedulerUpdate now s = turnChannels now s := by
  subst h
  exact schedulerUpdate_eq s.clock s

section
variable {s : State} {c : Command} {irIn : Bool} {missed : Nat} {now : U32}

/-- A tick with its scheduler update written out: the decoder update has kept the clock. -/
theorem exec_tick_turns (hnow : (s.advanceClock (missed + 1)).clock = now) :
    exec (.tick irIn missed) s =
      andThen (decoderUpdate now irIn (s.advanceClock (missed + 1))) (fun u => .next (turnChannels now u)) := by
  rw [exec_tick, hnow]
  cases hu : decoderUpdate now irIn (s.advanceClock (missed + 1)) with
  | next u =>
    obtain ⟨-, hclock, -⟩ := decoderUpdate_frame hu
    rw [andThen_next, andThen_next, schedulerUpdate_of_clock (hclock.trans hnow)]
  | fault r => rfl
  | refused r => rfl

theorem exec_tick_idle (hr : s.rxState = .idle) (hnow : (s.advanceClock (missed + 1)).clock = now) :
    exec (.tick irIn missed) s =
      .next (turnChannels now ((idleArm now irIn (s.advanceClock (missed + 1))).sample irIn)) := by
  rw [exec_tick_turns hnow, decoderUpdate_idle (s := s.advanceClock _) hr, andThen_next]

theorem exec_tick_receiving (hr : s.rxState = .receiving) (hnow : (s.advanceClock (missed + 1)).clock = now) :
    exec (.tick irIn missed) s =
      .next (turnChannels now ((receivingArm now irIn (s.advanceClock (missed + 1))).sample irIn)) := by
  rw [exec_tick_turns hnow, decoderUpdate_receiving (s := s.advanceClock _) hr, andThen_next]

theorem exec_tick_done (hr : s.rxState = .done) (hnow : (s.advanceClock (missed + 1)).clock = now) :
    exec (.tick irIn missed) s =
      andThen (doneArm (s.advanceClock (missed + 1))) (fun u => .next (turnChannels now (u.sample irIn))) := by
  rw [exec_tick_turns hnow, decoderUpdate_done (s := s.advanceClock _) hr, andThen_assoc]
  rfl

/-- In `Done` on `Unknown`. -/
theorem exec_tick_unknown (hr : s.rxState = .done) (hnow : (s.advanceClock (missed + 1)).clock = now)
    (hc : decodeNec s.cfg s.entries s.lastCmd = none) :
    exec (.tick irIn missed) s =
      .next (turnChannels now ((leaveDone (s.advanceClock (missed + 1))).sample irIn)) := by
  rw [exec_tick_done hr hnow, doneArm_unknown (s := s.advanceClock _) hc, andThen_next]

/-- In `Done` on a known command without a handler. -/
theorem exec_tick_unhandled (hr : s.rxState = .done) (hnow : (s.advanceClock (missed + 1)).clock = now)
    (hc : decodeNec s.cfg s.entries s.lastCmd = some c) (hs : s.handlerSet = false) :
    exec (.tick irIn missed) s =
      .next (turnChannels now ((leaveDone (announceCommand c (s.advanceClock (missed + 1)))).sample irIn)) := by
  rw [exec_tick_done hr hnow, doneArm_unhandled (s := s.advanceClock _) hc hs, andThen_next]

/-- In `Done` on a known command with a handler: its window on the announced state, its return, the sample, the turns (R127,
R129, R203, R204). -/
theorem exec_tick_handled (hr : s.rxState = .done) (hnow : (s.advanceClock (missed + 1)).clock = now)
    (hc : decodeNec s.cfg s.entries s.lastCmd = some c) (hs : s.handlerSet = true) :
    exec (.tick irIn missed) s =
      andThen (exec (.decHandlerWindow c) (announceCommand c (s.advanceClock (missed + 1))))
        (fun u => .next (turnChannels now ((leaveDone u).sample irIn))) := by
  rw [exec_tick_done hr hnow, doneArm_handled (s := s.advanceClock _) hc hs, andThen_assoc,
    exec_decHandlerWindow (s := announceCommand c (s.advanceClock _)) hr hs]
  rfl

/-- The same where the handler's calls are all answered, by their last state. -/
theorem exec_tick_handled_of_calls {u : State} (hr : s.rxState = .done)
    (hnow : (s.advanceClock (missed + 1)).clock = now)
    (hc : decodeNec s.cfg s.entries s.lastCmd = some c) (hs : s.handlerSet = true)
    (hu : runCalls (handlerCalls s.handler c) (announceCommand c (s.advanceClock (missed + 1))) = .next u) :
    exec (.tick irIn missed) s = .next (turnChannels now ((leaveDone u).sample irIn)) := by
  have hwindow : exec (.decHandlerWindow c) (announceCommand c (s.advanceClock (missed + 1))) = .next u :=
    (exec_decHandlerWindow (s := announceCommand c (s.advanceClock _)) hr hs).trans hu
  rw [exec_tick_handled hr hnow hc hs, hwindow, andThen_next]

end

/-! ### The whole next state of a tick -/

/-- Settles O47: the falling edge starts a frame, anything else leaves the arm's state, then every channel turns. -/
theorem tickInIdle : Obligations.TickInIdle := by
  intro s irIn missed hr now after
  rw [exec_tick_idle (now := now) hr rfl]
  by_cases hedge : s.prevLevel = true ∧ irIn = false
  · have harm : idleArm now irIn (s.advanceClock (missed + 1)) = startFrame now (s.advanceClock (missed + 1)) :=
      if_pos hedge
    rw [harm, if_pos hedge]
    rfl
  · have harm : idleArm now irIn (s.advanceClock (missed + 1)) = s.advanceClock (missed + 1) := if_neg hedge
    rw [harm, if_neg hedge]
    rfl

/-- Settles O48: the five outcomes of the `Receiving` arm, each followed by the sample and the channels' turns. -/
theorem tickInReceiving : Obligations.TickInReceiving := by
  intro s irIn missed hr now d writes after
  rw [exec_tick_receiving (now := now) hr rfl]
  have hcases := receivingArm_cases now irIn (s.advanceClock (missed + 1))
  simp only [advanceClock_prevLevel, advanceClock_bufIdx, advanceClock_cfg] at hcases
  rcases hcases with
    ⟨hedge, hroom, harm⟩ | ⟨hedge, hfull, harm⟩ | ⟨hheld, hhigh, hgap, harm⟩ | ⟨hheld, hlow, hmark, harm⟩ |
    ⟨hheld, hwithin, harm⟩
  · rw [harm, if_pos hedge, if_pos hroom]
    rfl
  · rw [harm, if_pos hedge, if_neg (Nat.not_lt.2 hfull), List.append_cons s.trace]
    rfl
  · rw [harm, if_neg (not_not.2 hheld), if_pos ⟨hhigh, hgap⟩]
    rfl
  · rw [harm, if_neg (not_not.2 hheld), if_neg (by simp [hlow]), if_pos ⟨hlow, hmark⟩]
    rfl
  · have hgap : ¬(irIn = true ∧ 10000 < d.toNat) := by
      rintro ⟨rfl, hgap⟩
      exact Nat.not_lt.2 hwithin hgap
    have hmark : ¬(irIn = false ∧ 9000 * (100 + s.cfg.tolPct) / 100 < d.toNat) := by
      rintro ⟨rfl, hmark⟩
      exact Nat.not_lt.2 hwithin hmark
    rw [harm, if_neg (not_not.2 hheld), if_neg hgap, if_neg hmark]
    rfl

/-- Settles O49: `Unknown`, a known command without a handler, and any handler by its window; the two handlers written out
by the state their calls answer. -/
theorem tickInDone : Obligations.TickInDone := by
  intro s irIn missed hr now finish
  refine ⟨fun hnone => ?unknown, fun c hc => ⟨fun hs => ?unhandled, fun hs => ⟨fun t => ?answered, fun r => ?refused⟩,
    fun hs hcalls => ?noCall, fun hs k v x hx hcalls => ?oneTarget⟩⟩
  case unknown =>
    rw [exec_tick_unknown (now := now) hr rfl hnone]
    simp only [finish, List.append_nil]
    rfl
  case unhandled => exact exec_tick_unhandled hr rfl hc hs
  case answered =>
    rw [exec_tick_handled (now := now) hr rfl hc hs, andThen_eq_next]
    refine exists_congr fun u => and_congr_right fun _ => ?_
    rw [Outcome.next.injEq, eq_comm]
    rfl
  case refused =>
    rw [exec_tick_handled (now := now) hr rfl hc hs, andThen_eq_refused]
    simp only [reduceCtorEq, and_false, exists_false, or_false]
    rfl
  case noCall =>
    have hanswer : runCalls (handlerCalls s.handler c) (announceCommand c (s.advanceClock (missed + 1))) =
        .next (announceCommand c (s.advanceClock (missed + 1))) := by
      rw [hcalls, runCalls]
    exact exec_tick_handled_of_calls hr rfl hc hs hanswer
  case oneTarget =>
    have hanswer : runCalls (handlerCalls s.handler c) (announceCommand c (s.advanceClock (missed + 1))) =
        .next (setTargetOp k v (announceCommand c (s.advanceClock (missed + 1)))) := by
      rw [hcalls]
      rfl
    rw [setTargetOp_of_getElem? (s := announceCommand c (s.advanceClock (missed + 1))) v hx] at hanswer
    exact exec_tick_handled_of_calls hr rfl hc hs hanswer

end Sys2Proof.Machine

/-! The family of 41_decoder_fsm.md: the decoder's arms as rows of their own. -/

namespace Sys2Proof.Machine

/-- R121, R120: the row is the effect `startFrame` under the arm's guard, which includes that the decoder is in `Idle`. -/
theorem exec_decIdleStart (now : U32) (level : Bool) (s : State) :
    exec (.decIdleStart now level) s =
      .next (if s.rxState = .idle ∧ s.prevLevel = true ∧ level = false then startFrame now s else s) := rfl

/-- Settles O36: the two branches of the row's guard; with it, `startFrame` writes the three fields of R121 and no other. -/
theorem idleArmStartsAFrame : Obligations.IdleArmStartsAFrame := by
  intro s now level
  rw [exec_decIdleStart]
  constructor
  · intro hidle hhigh hlow
    rw [if_pos ⟨hidle, hhigh, hlow⟩, startFrame]
  · intro hguard
    rw [if_neg hguard]

end Sys2Proof.Machine

/-! The family of 42_tolerance_match.md: the compensated durations as returned words. -/

namespace Sys2Proof.Machine

theorem exec_compMark (d : U32) (s : State) :
    exec (.compMark d) s = .next { s with result := .word (compMark s.cfg d) } := rfl

theorem exec_compSpace (d : U32) (s : State) :
    exec (.compSpace d) s = .next { s with result := .word (compSpace s.cfg d) } := rfl

/-- Settles O15: the row returns `compMark`, whose number is a difference of naturals; a mark below `COMP_US` makes it 0. -/
theorem compMarkSaturatesAtZero : Obligations.CompMarkSaturatesAtZero := by
  intro s d
  refine ⟨compMark s.cfg d, exec_compMark d s, ?_⟩
  rw [compMark_toNat]
  split
  case isTrue => rfl
  case isFalse hbelow => exact Nat.sub_eq_zero_of_le (Nat.le_of_not_le hbelow)

/-- Settles O16: the row returns `compSpace`, whose number is the smaller of the sum and `2^32 − 1`. -/
theorem compSpaceSaturatesAtMax : Obligations.CompSpaceSaturatesAtMax := by
  intro s d
  refine ⟨compSpace s.cfg d, exec_compSpace d s, ?_⟩
  rw [compSpace_toNat, Nat.min_def]

end Sys2Proof.Machine

/-! The family of 43_nec_decode.md: a data frame by its header and its bits, Decode by the kind of frame, and what each
failing step answers. -/

namespace Sys2Proof.Machine

theorem exec_dataFrame (es : List U32) (s : State) :
    exec (.dataFrame es) s = .next { s with result := .command (decodeDataFrame s.cfg es) } := rfl

theorem exec_repeatFrame (es : List U32) (s : State) :
    exec (.repeatFrame es) s =
      .next { s with result := .command (if isRepeatFrame s.cfg es then s.lastCmd else none) } := rfl

theorem exec_necDecode (es : List U32) (last : Option Command) (s : State) :
    exec (.necDecode es last) s = .next { s with result := .command (decodeNec s.cfg es last) } := rfl

/-- The `DEC_DONE` row in `Done` is the arm (R127). -/
theorem exec_decDone {s : State} (hd : s.rxState = .done) : exec .decDone s = doneArm s := if_pos hd

/-! ### The header and the length of a data frame (R151 to R155) -/

/-- What steps 1 to 5 ask of the entries before the bits of a data frame are read. -/
structure DataCandidate (cfg : Config) (es : List U32) : Prop where
  long : minDataLen ≤ es.length
  headerMark : matchesMark cfg (entryAt es 0) hdrMarkUs = true
  notRepeat : matchesSpace cfg (entryAt es 1) rptSpaceUs = false
  headerSpace : matchesSpace cfg (entryAt es 1) hdrSpaceUs = true

theorem dataFrameBits_of_candidate {cfg : Config} {es : List U32} (h : DataCandidate cfg es) :
    dataFrameBits cfg es = readBits cfg nBits (es.drop 2) := by
  simp [dataFrameBits, h.long, h.headerMark, h.notRepeat, h.headerSpace]

theorem dataFrameBits_of_not_candidate {cfg : Config} {es : List U32} (h : ¬DataCandidate cfg es) :
    dataFrameBits cfg es = none := by
  refine if_neg fun hall => h ?_
  simp only [Bool.and_eq_true, decide_eq_true_eq, Bool.not_eq_true'] at hall
  obtain ⟨⟨⟨hlen, hmark⟩, hrpt⟩, hspace⟩ := hall
  exact ⟨hlen, hmark, hrpt, hspace⟩

theorem decodeDataFrame_of_bits {cfg : Config} {es : List U32} {bits : List Bool}
    (h : dataFrameBits cfg es = some bits) : decodeDataFrame cfg es = decodePayload cfg (payloadOfBits bits) := by
  simp only [decodeDataFrame, h]

theorem decodeDataFrame_of_not_candidate {cfg : Config} {es : List U32} (h : ¬DataCandidate cfg es) :
    decodeDataFrame cfg es = none := by
  simp only [decodeDataFrame, dataFrameBits_of_not_candidate h]

/-! ### The kind of frame decides (R153, R85, R159) -/

/-- Decode by the kind of frame: a candidate repeat frame is never read as a data frame, all other entries are. -/
theorem decodeNec_eq (cfg : Config) (es : List U32) (last : Option Command) :
    decodeNec cfg es last =
      if isRepeatCandidate cfg es then if isRepeatFrame cfg es then last else none else decodeDataFrame cfg es := by
  unfold decodeNec isRepeatFrame isRepeatCandidate
  by_cases hshort : es.length < minLen
  case pos =>
    have hdata : ¬DataCandidate cfg es := fun h =>
      absurd (h.long.trans_lt hshort) (by decide)
    simp [hshort, decodeDataFrame_of_not_candidate hdata]
  case neg =>
    cases hmark : matchesMark cfg (entryAt es 0) hdrMarkUs
    case false =>
      have hdata : ¬DataCandidate cfg es := fun h =>
        Bool.false_ne_true (hmark.symm.trans h.headerMark)
      simp [ decodeDataFrame_of_not_candidate hdata]
    case true =>
      cases hrpt : matchesSpace cfg (entryAt es 1) rptSpaceUs
      case true => simp [hshort, Nat.le_of_not_lt hshort]
      case false =>
        by_cases hdata : DataCandidate cfg es
        case pos =>
          simp [hshort, hdata.headerSpace, Nat.not_lt_of_le hdata.long, decodeDataFrame,
            dataFrameBits_of_candidate hdata]
        case neg =>
          have hfail : matchesSpace cfg (entryAt es 1) hdrSpaceUs = true → es.length < minDataLen := fun hspace =>
            Nat.lt_of_not_le fun hlong => hdata ⟨hlong, hmark, hrpt, hspace⟩
          simp +contextual [hfail, decodeDataFrame_of_not_candidate hdata]

theorem decodeNec_of_isRepeatFrame {cfg : Config} {es : List U32} (h : isRepeatFrame cfg es = true)
    (last : Option Command) : decodeNec cfg es last = last := by
  have hcandidate : isRepeatCandidate cfg es = true := by
    simp only [isRepeatFrame, Bool.and_eq_true] at h
    obtain ⟨⟨hcandidate, -⟩, -⟩ := h
    exact hcandidate
  rw [decodeNec_eq, if_pos hcandidate, if_pos h]

/-- A candidate repeat frame that is none decodes to `Unknown` (R153). -/
theorem decodeNec_of_isRepeatCandidate {cfg : Config} {es : List U32} (hc : isRepeatCandidate cfg es = true)
    (h : isRepeatFrame cfg es = false) (last : Option Command) : decodeNec cfg es last = none := by
  simp [decodeNec_eq, hc, h]

/-- Entries that are no candidate repeat frame decode as a data frame does (R154 to R158). -/
theorem decodeNec_of_not_isRepeatCandidate {cfg : Config} {es : List U32} (h : isRepeatCandidate cfg es = false)
    (last : Option Command) : decodeNec cfg es last = decodeDataFrame cfg es := by
  simp [decodeNec_eq, h]

theorem isRepeatCandidate_of_not_rptSpace {cfg : Config} {es : List U32}
    (h : matchesSpace cfg (entryAt es 1) rptSpaceUs = false) : isRepeatCandidate cfg es = false := by
  simp [isRepeatCandidate, h]

section
variable {cfg : Config} {m r : U32}

theorem isRepeatCandidate_cons_cons (tail : List U32) (hm : matchesMark cfg m hdrMarkUs = true)
    (hr : matchesSpace cfg r rptSpaceUs = true) : isRepeatCandidate cfg (m :: r :: tail) = true := by
  simp [isRepeatCandidate, entryAt, minLen, hm, hr]

/-- After its header a repeat frame holds one bit mark and no more (R84). -/
theorem isRepeatFrame_cons_cons_iff (tail : List U32) (hm : matchesMark cfg m hdrMarkUs = true)
    (hr : matchesSpace cfg r rptSpaceUs = true) :
    isRepeatFrame cfg (m :: r :: tail) = true ↔ ∃ b, tail = [b] ∧ matchesMark cfg b bitMarkUs = true := by
  simp only [isRepeatFrame, isRepeatCandidate_cons_cons tail hm hr, Bool.true_and, Bool.and_eq_true,
    List.length_cons, repeatLen]
  match tail with
  | [] => simp
  | [b] => simp [entryAt]
  | _ :: _ :: _ => simp

end

/-- Settles O18: the tail after the header is one bit mark or it is not; a candidate is no data frame, because entry 1
is its repeat space. -/
theorem repeatFrameYieldsTheCache : Obligations.RepeatFrameYieldsTheCache := by
  intro s m r tail last hm hr
  refine ⟨fun b hb => ?isRepeat, fun htail => ?isNone⟩
  case isRepeat =>
    have hframe : isRepeatFrame s.cfg [m, r, b] = true := (isRepeatFrame_cons_cons_iff [b] hm hr).2 ⟨b, rfl, hb⟩
    rw [exec_repeatFrame, exec_necDecode, if_pos hframe, decodeNec_of_isRepeatFrame hframe]
    exact ⟨rfl, rfl⟩
  case isNone =>
    have hframe : isRepeatFrame s.cfg (m :: r :: tail) = false := by
      rw [Bool.eq_false_iff, Ne, isRepeatFrame_cons_cons_iff tail hm hr]
      rintro ⟨b, hb, hmark⟩
      exact Bool.false_ne_true ((htail b hb).symm.trans hmark)
    have hdata : ¬DataCandidate s.cfg (m :: r :: tail) := fun h => Bool.false_ne_true (h.notRepeat.symm.trans hr)
    rw [exec_repeatFrame, exec_dataFrame, exec_necDecode, hframe, decodeDataFrame_of_not_candidate hdata,
      decodeNec_of_isRepeatCandidate (isRepeatCandidate_cons_cons tail hm hr) hframe]
    exact ⟨rfl, rfl, rfl⟩

/-- Settles O24: Decode answers the cached command; then every outcome of the arm (`doneArm_next`) caches that command
again, and a handler's calls leave the cache alone (`runCalls_frame`). -/
theorem repeatKeepsTheCache : Obligations.RepeatKeepsTheCache := by
  intro s m r b c hentries hlast hm hr hb
  have hdecode : decodeNec s.cfg s.entries s.lastCmd = some c := by
    rw [hentries, decodeNec_of_isRepeatFrame ((isRepeatFrame_cons_cons_iff [b] hm hr).2 ⟨b, rfl, hb⟩), hlast]
  refine ⟨by rw [exec_necDecode, hdecode], fun hdone => ⟨fun t ht => ?keeps, fun hs => ?completes⟩⟩
  case keeps =>
    rw [exec_decDone hdone] at ht
    rcases doneArm_next ht with ⟨hnone, -⟩ | ⟨d, hd, -, rfl⟩ | ⟨d, u, hd, -, hu, rfl⟩
    · rw [hdecode] at hnone
      cases hnone
    · exact hd.symm.trans hdecode
    · rw [runCalls_frame hu]
      exact hd.symm.trans hdecode
  case completes =>
    exact ⟨_, (exec_decDone hdone).trans (doneArm_unhandled hdecode hs), rfl⟩

/-! ### The failures of steps 1 to 5 (R151, R152, R154, R155) -/

/-- What is neither a candidate repeat frame nor a candidate data frame is `Unknown`. -/
theorem decodeNec_of_no_candidate {cfg : Config} {es : List U32} (hr : isRepeatCandidate cfg es = false)
    (hd : ¬DataCandidate cfg es) (last : Option Command) : decodeNec cfg es last = none := by
  rw [decodeNec_of_not_isRepeatCandidate hr, decodeDataFrame_of_not_candidate hd]

/-- Settles O19: in each of the cases the entries are a candidate for neither kind of frame. -/
theorem headerAndLengthFailuresAreUnknown : Obligations.HeaderAndLengthFailuresAreUnknown := by
  intro s es last hfail
  have hrepeat : isRepeatCandidate s.cfg es = false := by
    rw [Bool.eq_false_iff]
    intro hall
    simp only [isRepeatCandidate, Bool.and_eq_true, decide_eq_true_eq] at hall
    obtain ⟨⟨hlen, hmark⟩, hspace⟩ := hall
    rcases hfail with hshort | hbad | ⟨hbad, -⟩
    · exact Nat.not_le_of_lt hshort hlen
    · exact Bool.false_ne_true (hbad.symm.trans hmark)
    · exact Bool.false_ne_true (hbad.symm.trans hspace)
  have hdata : ¬DataCandidate s.cfg es := by
    rintro ⟨hlen, hmark, -, hspace⟩
    rcases hfail with hshort | hbad | ⟨-, hbad | hshort⟩
    · exact absurd (hlen.trans_lt hshort) (by decide)
    · exact Bool.false_ne_true (hbad.symm.trans hmark)
    · exact Bool.false_ne_true (hbad.symm.trans hspace)
    · exact Nat.not_le_of_lt hshort hlen
  rw [exec_necDecode, exec_dataFrame, decodeNec_of_no_candidate hrepeat hdata, decodeDataFrame_of_not_candidate hdata]
  exact ⟨rfl, rfl⟩

/-! ### The bits and the payload (R82, R87, R156) -/

/-- A mark and a space stand for bit `b`: the one-space test comes first, so a space that passes both is a one. -/
def StandsFor (cfg : Config) (b : Bool) (m sp : U32) : Prop :=
  matchesMark cfg m bitMarkUs = true ∧
    (b = true ∧ matchesSpace cfg sp oneSpaceUs = true ∨
      b = false ∧ matchesSpace cfg sp oneSpaceUs = false ∧ matchesSpace cfg sp zeroSpaceUs = true)

theorem readBits_succ_of_standsFor {cfg : Config} {b : Bool} {m sp : U32} (h : StandsFor cfg b m sp) (n : Nat)
    (rest : List U32) : readBits cfg (n + 1) (m :: sp :: rest) = (readBits cfg n rest).map (b :: ·) := by
  obtain ⟨hm, ⟨rfl, hone⟩ | ⟨rfl, hone, hzero⟩⟩ := h
  · simp [readBits, hm, hone]
  · simp [readBits, hm, hone, hzero]

theorem entryAt_drop (es : List U32) (j k : Nat) : entryAt (es.drop j) k = entryAt es (j + k) := by
  simp [entryAt, List.getD_eq_getElem?_getD]

/-- Entries that stand for the bits `bit 0`, `bit 1`, … are read as those, in that order. -/
theorem readBits_of_standsFor {cfg : Config} (n : Nat) {es : List U32} {bit : Nat → Bool} (hlen : 2 * n ≤ es.length)
    (h : ∀ k, k < n → StandsFor cfg (bit k) (entryAt es (2 * k)) (entryAt es (2 * k + 1))) :
    readBits cfg n es = some ((List.range n).map bit) := by
  induction n generalizing es bit with
  | zero => rfl
  | succ n ih =>
    match es with
    | [] => simp at hlen
    | [_] => simp at hlen; omega
    | m :: sp :: rest =>
      have hrest : readBits cfg n rest = some ((List.range n).map fun k => bit (k + 1)) := by
        refine ih (by simpa [Nat.mul_add] using hlen) fun k hk => ?_
        exact h (k + 1) (Nat.succ_lt_succ hk)
      have hfirst : StandsFor cfg (bit 0) m sp := h 0 n.succ_pos
      rw [readBits_succ_of_standsFor hfirst, hrest, List.range_succ_eq_map, Option.map_some, List.map_cons,
        List.map_map]
      rfl

/-- The binary digits of `bitsVal` are the bits themselves (R87). -/
theorem bitsVal_testBit (bits : List Bool) (k : Nat) : (bitsVal bits).testBit k = bits.getD k false := by
  induction bits generalizing k with
  | nil => simp [bitsVal]
  | cons b bits ih =>
    cases k with
    | zero => cases b <;> simp [bitsVal, Nat.testBit_zero]
    | succ k =>
      have hhalf : (b.toNat + 2 * bitsVal bits) / 2 = bitsVal bits := by
        cases b
        case false => simp
        case true => simp; omega
      rw [bitsVal, Nat.testBit_succ, hhalf, ih, List.getD_cons_succ]

/-- Assembling a payload's bits gives the payload back (R87). -/
theorem payloadOfBits_payloadBits (v : BitVec 32) : payloadOfBits (payloadBits v) = v := by
  refine BitVec.eq_of_getLsbD_eq fun k hk => ?_
  rw [payloadOfBits, BitVec.getLsbD_ofNat, bitsVal_testBit]
  simp [payloadBits, hk]

/-! ### The checksum (R157, R162) -/

/-- A data frame of 32 bits decodes as the payload they assemble to, wherever its header and its length are right. -/
theorem decodeDataFrame_of_standsFor {cfg : Config} {es : List U32} {v : BitVec 32} (hc : DataCandidate cfg es)
    (h : ∀ k, k < 32 → StandsFor cfg (v.getLsbD k) (entryAt es (2 + 2 * k)) (entryAt es (3 + 2 * k))) :
    decodeDataFrame cfg es = decodePayload cfg v := by
  have hlen : 2 * nBits ≤ (es.drop 2).length := by
    have := hc.long
    simp only [minDataLen] at this
    simp only [nBits, List.length_drop]
    omega
  have hbits : readBits cfg nBits (es.drop 2) = some (payloadBits v) := by
    refine readBits_of_standsFor nBits hlen fun k hk => ?_
    rw [entryAt_drop, entryAt_drop, show 2 + (2 * k + 1) = 3 + 2 * k by omega]
    exact h k hk
  rw [decodeDataFrame_of_bits ((dataFrameBits_of_candidate hc).trans hbits), payloadOfBits_payloadBits]

theorem decodePayload_of_bad_complement {cfg : Config} {v : BitVec 32}
    (h : payB0 v ≠ not8 (payB1 v) ∨ payB2 v ≠ not8 (payB3 v)) : decodePayload cfg v = none := by
  refine if_neg fun hvalid => ?_
  simp only [payloadValid, Bool.and_eq_true, decide_eq_true_eq] at hvalid
  obtain ⟨haddress, hcommand⟩ := hvalid
  exact h.elim (absurd haddress) (absurd hcommand)

/-- Settles O23: a wrong header or length is `Unknown` before any bit is read; a data candidate decodes as its payload,
which the checksum refuses. -/
theorem checksumFailuresAreUnknown : Obligations.ChecksumFailuresAreUnknown := by
  intro s es last v hrpt hbits hsum
  have hdata : decodeDataFrame s.cfg es = none := by
    by_cases hc : DataCandidate s.cfg es
    case pos => rw [decodeDataFrame_of_standsFor hc hbits, decodePayload_of_bad_complement hsum]
    case neg => exact decodeDataFrame_of_not_candidate hc
  have hrepeat : isRepeatCandidate s.cfg es = false := isRepeatCandidate_of_not_rptSpace hrpt
  rw [exec_necDecode, exec_dataFrame, decodeNec_of_not_isRepeatCandidate hrepeat, hdata]
  exact ⟨rfl, rfl⟩

end Sys2Proof.Machine

/-! The family of 44_pwm_scheduler.md: what `configure` answers, the pulse times a target can set, and the scheduler's two
arms. -/

namespace Sys2Proof.Machine

theorem exec_configure (n : Nat) (s : State) : exec (.configure n) s = configureOp n s := rfl

theorem exec_setTarget (k v : Int) (s : State) : exec (.setTarget k v) s = .next (setTargetOp k v s) := rfl

theorem exec_pwmFall (k : Nat) (now : U32) (s : State) : exec (.pwmFall k now) s = .next (fallArm k now s) := rfl

theorem exec_pwmRise (k : Nat) (now : U32) (s : State) : exec (.pwmRise k now) s = .next (riseArm k now s) := rfl

/-! ### Targets (R172, R178) -/

theorem pulseOf_of_nonpos {v : Int} (h : v ≤ 0) : (pulseOf v).toNat = 1000 := by
  have hpulse := pulseOf_toNat v
  omega

theorem pulseOf_of_180_le {v : Int} (h : 180 ≤ v) : (pulseOf v).toNat = 2000 := by
  have hpulse := pulseOf_toNat v
  omega

/-- Settles O34: the row stores `pulseOf v` in the record, and the transform's clamp bounds it. -/
theorem pulseTimesAreClamped : Obligations.PulseTimesAreClamped := by
  intro s k v c hc
  obtain ⟨hmin, hmax⟩ := pulseOf_range v
  refine ⟨pulseOf v, ?_, hmin, hmax, pulseOf_of_nonpos, pulseOf_of_180_le⟩
  rw [exec_setTarget, setTargetOp_of_getElem? v hc]

/-! ### The channel table (R170, R196) -/

theorem configureOp_zero (s : State) : configureOp 0 s = .next (s.returnResult .invalidCapacity) := if_pos rfl

theorem configureOp_first {n : Nat} {s : State} (hn : 0 < n) (hs : s.chCapacity = 0) :
    configureOp n s = .next (({ s with chCapacity := n, ch := [] } : State).returnResult .ok) := by
  rw [configureOp, if_neg hn.ne', if_neg (not_not_intro hs)]

theorem configureOp_second {n : Nat} {s : State} (hn : 0 < n) (hs : 0 < s.chCapacity) :
    configureOp n s = .refused .secondConfigure := by
  rw [configureOp, if_neg hn.ne', if_pos hs.ne']

/-- Settles O28: the three branches of `configureOp`; what is returned is also recorded with the clock. -/
theorem configureAllocatesOnce : Obligations.ConfigureAllocatesOnce := by
  intro s n
  simp only [exec_configure]
  exact ⟨configureOp_zero s, configureOp_first, configureOp_second⟩

/-! ### The arms (R173, R174) -/

theorem fallArm_of_getElem? {s : State} {k : Nat} {c : Channel} (now : U32) (h : s.ch[k]? = some c) :
    fallArm k now s = if c.fallDue now then driveChannel k c false now s else s := by
  simp only [fallArm, h]

theorem riseArm_of_getElem? {s : State} {k : Nat} {c : Channel} (now : U32) (h : s.ch[k]? = some c) :
    riseArm k now s = if c.riseDue now then driveChannel k c true now s else s := by
  simp only [riseArm, h]

/-- R174's comparison with the rest of the frame as a difference of integers. -/
theorem riseDue_iff_rest (c : Channel) (now : U32) :
    c.riseDue now = true ↔
      c.level = false ∧ (20000 : Int) - c.pulseTime.toNat < (now - c.lastTransition).toNat := by
  rw [riseDue_iff, pwmPeriodUs]
  exact and_congr_right fun _ => by omega

/-- Settles O43: the two branches of the arm's guard `fallDue`; when due, the effect is `driveChannel` to low. -/
theorem fallArmDrivesLow : Obligations.FallArmDrivesLow := by
  intro s k now c hc
  rw [exec_pwmFall, fallArm_of_getElem? now hc]
  constructor
  · intro hhigh helapsed
    rw [if_pos ((fallDue_iff c now).2 ⟨hhigh, helapsed⟩)]
    rfl
  · intro hnot
    rw [if_neg (mt (fallDue_iff c now).1 hnot)]

/-- Settles O44: the two branches of the arm's guard `riseDue`; when due, the effect is `driveChannel` to high. -/
theorem riseArmDrivesHigh : Obligations.RiseArmDrivesHigh := by
  intro s k now c hc due
  rw [exec_pwmRise, riseArm_of_getElem? now hc]
  constructor
  · intro hdue
    rw [if_pos ((riseDue_iff_rest c now).2 hdue)]
    rfl
  · intro hnot
    rw [if_neg (mt (riseDue_iff_rest c now).1 hnot)]

end Sys2Proof.Machine

/-! The family of 60_exceptions.md: what `add` answers on a full table, and what `set_target` leaves of the state where the
index has no record. -/

namespace Sys2Proof.Machine

theorem exec_add (p : PinId) (s : State) : exec (.add p) s = addOp p s := rfl

theorem addOp_of_full (p : PinId) {s : State} (h : s.chCapacity ≤ s.ch.length) :
    addOp p s = .next (s.returnResult .capacityExceeded) := if_pos h

/-- Settles O30: the capacity test is the first that `add` makes, and a failed test only returns its result. -/
theorem addToAFullTableFails : Obligations.AddToAFullTableFails := by
  intro s p hfull
  rw [exec_add, addOp_of_full p hfull]
  rfl

theorem setTargetOp_of_out_of_range (v : Int) {s : State} {k : Int} (h : k < 0 ∨ (s.ch.length : Int) ≤ k) :
    setTargetOp k v s = s.setResult .nothing := if_pos h

/-- Settles O33: outside the table `set_target` has no record to write, and what it returns is nothing. -/
theorem setTargetOutOfRangeIsSilent : Obligations.SetTargetOutOfRangeIsSilent := by
  intro s k v hout
  rw [exec_setTarget, setTargetOp_of_out_of_range v hout]
  rfl

end Sys2Proof.Machine

/-! The machine's two invariants: every operation keeps them, so every step does. -/

namespace Sys2Proof.Machine

/-- The ranges of R8, one by one. -/
theorem legal_iff (c : Config) :
    c.legal = true ↔ 1 ≤ c.bufCapacity ∧ 1 ≤ c.tickUs ∧ c.tolPct ≤ 100 ∧ c.compUs < 2 ^ 32 ∧ 0x18#8 ∈ c.cmdTable := by
  simp only [Config.legal, Bool.and_eq_true, decide_eq_true_eq, List.contains_iff_mem, and_assoc]

theorem tickUs_pos {c : Config} (h : c.legal = true) : 0 < c.tickUs := by
  obtain ⟨-, hpos, -⟩ := (legal_iff c).1 h
  exact hpos

theorem up_mem_cmdTable {c : Config} (h : c.legal = true) : 0x18#8 ∈ c.cmdTable := by
  obtain ⟨-, -, -, -, hup⟩ := (legal_iff c).1 h
  exact hup

/-! ### `Inv`, operation by operation (the ones `Laws/Invariant.lean` leaves out) -/

/-- Reset keeps no more than the configuration and what the environment observed. -/
theorem inv_takeReset {s : State} (hl : s.cfg.legal = true) : Inv (takeReset s) where
  cfgLegal := hl
  bufCanonical := reset_buf_wf
  bufBounded := fun _ _ h => nomatch h
  bufIdxBounded := Nat.zero_le _
  bufWritten := fun _ h => absurd h (Nat.not_lt_zero _)
  chCountBounded := Nat.zero_le _
  pulseRange := fun _ h => nomatch h
  pinsDistinct := List.nodup_nil
  pinsNotIr := fun _ h => nomatch h
  levelsDriven := fun _ h => nomatch h
  phase := fun h => nomatch h
  durationBounded := fun h => nomatch h
  cacheKnown := fun _ h => nomatch h

theorem inv_setResult {s : State} (h : Inv s) (r : Result) : Inv (s.setResult r) :=
  h.congr rfl rfl rfl rfl rfl rfl rfl rfl rfl rfl rfl

theorem inv_registerHandler {s : State} (h : Inv s) (g : Handler) : Inv (registerHandler g s) :=
  h.congr rfl rfl rfl rfl rfl rfl rfl rfl rfl rfl rfl

/-- Taking a stimulus: the invariant does not speak of what is pending. -/
theorem inv_inbox {s : State} (h : Inv s) (rest : List Stimulus) : Inv { s with inbox := rest } :=
  h.congr rfl rfl rfl rfl rfl rfl rfl rfl rfl rfl rfl

/-- An emptied channel table satisfies whatever the invariant asks of channels. -/
theorem inv_emptyTable {s : State} (h : Inv s) (n : Nat) : Inv { s with chCapacity := n, ch := [] } where
  cfgLegal := h.cfgLegal
  bufCanonical := h.bufCanonical
  bufBounded := h.bufBounded
  bufIdxBounded := h.bufIdxBounded
  bufWritten := h.bufWritten
  chCountBounded := Nat.zero_le _
  pulseRange := fun _ h => nomatch h
  pinsDistinct := List.nodup_nil
  pinsNotIr := fun _ h => nomatch h
  levelsDriven := fun _ h => nomatch h
  phase := h.phase
  durationBounded := h.durationBounded
  cacheKnown := h.cacheKnown

theorem inv_returnResult {s : State} (h : Inv s) (r : Result) : Inv (s.returnResult r) :=
  h.congr rfl rfl rfl rfl rfl rfl rfl rfl rfl rfl rfl

theorem inv_configureOp {s t : State} (h : Inv s) {n : Nat} (ht : configureOp n s = .next t) : Inv t := by
  rcases configureOp_cases n s with ⟨-, e⟩ | ⟨-, -, e⟩ | ⟨-, -, e⟩ <;> rw [e] at ht <;> cases ht
  · exact inv_returnResult h _
  · exact inv_returnResult (inv_emptyTable h n) _

/-- Outside `Receiving` the invariant does not read the clock: before the decoder update of a pass it holds but for the
bound on the running duration. -/
theorem inv_leaveDone_advanceClock {s : State} (h : Inv s) (fires : Nat) : Inv (leaveDone (s.advanceClock fires)) where
  cfgLegal := h.cfgLegal
  bufCanonical := h.bufCanonical
  bufBounded := h.bufBounded
  bufIdxBounded := h.bufIdxBounded
  bufWritten := h.bufWritten
  chCountBounded := h.chCountBounded
  pulseRange := h.pulseRange
  pinsDistinct := h.pinsDistinct
  pinsNotIr := h.pinsNotIr
  levelsDriven := h.levelsDriven
  phase := fun h => nomatch h
  durationBounded := fun h => nomatch h
  cacheKnown := h.cacheKnown

/-- What the decoder update of a pass leaves, before the scheduler's. -/
theorem inv_passDecoder {s u : State} (h : Inv s) {irIn : Bool} {fires : Nat}
    (hu : decoderUpdate (s.advanceClock fires).clock irIn (s.advanceClock fires) = .next u) : Inv u :=
  inv_decoderUpdate (inv_leaveDone_advanceClock h fires) h.phase hu

theorem inv_tickPass {s t : State} (h : Inv s) {irIn : Bool} {missed : Nat} (ht : tickPass irIn missed s = .next t) :
    Inv t := by
  obtain ⟨u, hu, rfl⟩ := tickPass_next ht
  exact inv_schedulerUpdate (inv_passDecoder h hu) _

/-- Settles O3: one lemma for each thing a step can do (`step_cases`). -/
theorem stepKeepsInvariant : Obligations.StepKeepsInvariant := by
  intro s t h hstep
  obtain ⟨hl, ⟨-, rfl⟩ | ⟨st, rest, -, hcases⟩⟩ := step_cases hstep
  · exact h
  have h' : Inv { s with inbox := rest } := inv_inbox h rest
  rcases hcases with rfl | rfl | ⟨r, rfl⟩ | ⟨r, -, -, ht⟩ | ⟨n, ht⟩ | ⟨p, ht⟩ | ⟨k, v, rfl⟩ | ⟨g, rfl⟩
  · exact inv_takeReset hl
  · exact h'
  · exact inv_setResult h' r
  · exact inv_tickPass h' ht
  · exact inv_configureOp h' ht
  · exact inv_addOp h' ht
  · exact inv_setTargetOp h' k v
  · exact inv_registerHandler h' g

/-! ### The tick grid (R115, R117) -/

/-- The decoder's half of the grid. -/
structure DecoderOnGrid (s : State) : Prop where
  recorded : ∀ k v, s.buf.read k = some v → OnGrid s.cfg v
  measuring : s.rxState = .receiving → OnGrid s.cfg (s.duration s.clock)

/-- The channels' half of the grid, no phase longer than `bound`: the servo frame, but within a pass before the channels
have had their turn. -/
def ChannelsOnGrid (bound : Nat) (s : State) : Prop :=
  ∀ c ∈ s.ch, OnGrid s.cfg (s.clock - c.lastTransition) ∧ c.elapsed s.clock ≤ bound

theorem TickGrid.decoder {s : State} (h : TickGrid s) : DecoderOnGrid s := ⟨h.recorded, h.measuring⟩

theorem TickGrid.channels {s : State} (h : TickGrid s) : ChannelsOnGrid pwmPeriodUs s :=
  fun c hc => ⟨h.transitions c hc, h.phasesBounded c hc⟩

theorem tickGrid_of_halves {s : State} (hd : DecoderOnGrid s) (hc : ChannelsOnGrid pwmPeriodUs s) : TickGrid s where
  recorded := hd.recorded
  measuring := hd.measuring
  transitions := fun c h => (hc c h).1
  phasesBounded := fun c h => (hc c h).2

/-- Fields the decoder's half of the grid reads. -/
theorem DecoderOnGrid.congr {s t : State} (h : DecoderOnGrid s) (hcfg : t.cfg = s.cfg) (hclock : t.clock = s.clock)
    (hr : t.rxState = s.rxState) (hb : t.buf = s.buf) (he : t.edgeRef = s.edgeRef) : DecoderOnGrid t := by
  obtain ⟨hrec, hmeas⟩ := h
  constructor
  · simpa [hcfg, hb] using hrec
  · simpa [hcfg, hclock, hr, he, State.duration] using hmeas

theorem onGrid_sub_self (cfg : Config) (x : U32) : OnGrid cfg (x - x) := by
  rw [BitVec.sub_self]
  exact Nat.dvd_zero _

/-- A duration on the grid, run on by fires of the tick source that do not wrap it, stays on the grid. -/
theorem onGrid_advance {cfg : Config} {clock ref : U32} {fires : Nat} (h : OnGrid cfg (clock - ref))
    (hlt : (clock - ref).toNat + fires * cfg.tickUs < 2 ^ 32) :
    OnGrid cfg (clock + BitVec.ofNat 32 (fires * cfg.tickUs) - ref) := by
  rw [OnGrid, elapsed_advance hlt]
  exact Nat.dvd_add h (Nat.dvd_mul_left _ _)

/-! ### The channels' half -/

/-- `set_target` leaves every record's transition time. -/
theorem channelsOnGrid_setTargetOp {bound : Nat} {s : State} (h : ChannelsOnGrid bound s) (k v : Int) :
    ChannelsOnGrid bound (setTargetOp k v s) := by
  intro c hc
  have hmem : (c.pin, c.level, c.lastTransition) ∈ s.ch.map (fun c => (c.pin, c.level, c.lastTransition)) := by
    rw [← setTargetOp_records k v s]
    exact List.mem_map_of_mem hc
  obtain ⟨d, hd, heq⟩ := List.mem_map.1 hmem
  simp only [Prod.mk.injEq] at heq
  obtain ⟨-, -, hlast⟩ := heq
  simpa [Channel.elapsed, hlast] using h d hd

/-- A new channel's phase begins at the current clock. -/
theorem channelsOnGrid_addOp {bound : Nat} {s t : State} (h : ChannelsOnGrid bound s) {p : PinId}
    (ht : addOp p s = .next t) : ChannelsOnGrid bound t := by
  rcases addOp_cases p s with ⟨-, e⟩ | ⟨-, -, e⟩ | ⟨-, -, -, e⟩ | ⟨-, -, -, e⟩ <;> rw [e] at ht <;> cases ht
  · exact h
  · intro c hc
    rcases List.mem_append.1 hc with hc | hc
    · exact h c hc
    · rw [List.mem_singleton.1 hc]
      exact ⟨onGrid_sub_self _ _, by simp [Channel.elapsed, newChannel]⟩

theorem channelsOnGrid_runCalls {bound : Nat} {ops : List HandlerOp} {s t : State} (h : ChannelsOnGrid bound s)
    (ht : runCalls ops s = .next t) : ChannelsOnGrid bound t :=
  runCalls_induction (P := ChannelsOnGrid bound) (fun k v _ h => channelsOnGrid_setTargetOp h k v)
    (fun _ _ _ h => channelsOnGrid_addOp h) ht h

theorem channelsOnGrid_configureOp {bound : Nat} {s t : State} (h : ChannelsOnGrid bound s) {n : Nat}
    (ht : configureOp n s = .next t) : ChannelsOnGrid bound t := by
  rcases configureOp_cases n s with ⟨-, e⟩ | ⟨-, -, e⟩ | ⟨-, -, e⟩ <;> rw [e] at ht <;> cases ht
  · exact h
  · exact fun _ hc => nomatch hc

theorem channelsOnGrid_advanceClock {bound fires : Nat} {s : State} (h : ChannelsOnGrid bound s)
    (hlt : bound + fires * s.cfg.tickUs < 2 ^ 32) :
    ChannelsOnGrid (bound + fires * s.cfg.tickUs) (s.advanceClock fires) := by
  intro c hc
  obtain ⟨hgrid, hle⟩ := h c hc
  rw [Channel.elapsed] at hle
  have hnowrap : (s.clock - c.lastTransition).toNat + fires * s.cfg.tickUs < 2 ^ 32 := by omega
  refine ⟨onGrid_advance hgrid hnowrap, ?_⟩
  rw [Channel.elapsed, advanceClock_clock, elapsed_advance hnowrap]
  omega

/-- The decoder update touches the channels in the handler's window only. -/
theorem channelsOnGrid_decoderUpdate {bound : Nat} {now : U32} {level : Bool} {s t : State}
    (h : ChannelsOnGrid bound s) (ht : decoderUpdate now level s = .next t) : ChannelsOnGrid bound t := by
  rcases decoderUpdate_next ht with ⟨-, rfl⟩ | ⟨-, rfl⟩ | ⟨-, u, hu, rfl⟩
  · unfold idleArm
    split <;> exact h
  · rcases receivingArm_cases now level s with ⟨-, -, e⟩ | ⟨-, -, e⟩ | ⟨-, -, -, e⟩ | ⟨-, -, -, e⟩ | ⟨-, -, e⟩ <;>
      rw [e] <;> exact h
  · rcases doneArm_next hu with ⟨-, rfl⟩ | ⟨c, -, -, rfl⟩ | ⟨c, v, -, -, hv, rfl⟩
    · exact h
    · exact h
    · have hcalls : ChannelsOnGrid bound v := channelsOnGrid_runCalls (s := announceCommand c s) h hv
      exact hcalls

/-- The turns at the current clock bring every phase back within the servo frame. -/
theorem channelsOnGrid_schedulerUpdate {bound : Nat} {s : State} (h : ChannelsOnGrid bound s)
    (hp : ∀ c ∈ s.ch, c.pulseTime.toNat ≤ pwmPeriodUs) : ChannelsOnGrid pwmPeriodUs (schedulerUpdate s.clock s) := by
  intro c hc
  rw [schedulerUpdate_ch] at hc
  obtain ⟨d, hd, rfl⟩ := List.mem_map.1 hc
  obtain ⟨hle, hcases⟩ := turned_elapsed s.clock (hp d hd)
  rw [schedulerUpdate_cfg, schedulerUpdate_clock]
  refine ⟨?_, hle⟩
  show s.cfg.tickUs ∣ (turned s.clock d).elapsed s.clock
  rcases hcases with hzero | hsame
  · exact hzero ▸ Nat.dvd_zero _
  · exact hsame ▸ (h d hd).1

/-! ### The decoder's half -/

theorem phaseLimit_le {cfg : Config} (h : cfg.legal = true) (level : Bool) : phaseLimit cfg level ≤ 18000 := by
  obtain ⟨-, -, htol, -⟩ := (legal_iff cfg).1 h
  cases level
  · simp only [phaseLimit, markAbortUs, hdrMarkUs, Bool.false_eq_true, if_false]
    omega
  · simp [phaseLimit, frameGapUs]

theorem decoderOnGrid_advanceClock {s : State} {fires : Nat} (hi : Inv s) (h : DecoderOnGrid s)
    (hlt : fires * s.cfg.tickUs < 2 ^ 31) : DecoderOnGrid (s.advanceClock fires) where
  recorded := h.recorded
  measuring := fun hr => by
    have hlimit := (hi.durationBounded hr).trans (phaseLimit_le hi.cfgLegal s.prevLevel)
    rw [State.duration] at hlimit
    exact onGrid_advance (cfg := s.cfg) (ref := s.edgeRef) (h.measuring hr) (by omega)

theorem decoderOnGrid_appendEdge {s : State} (h : DecoderOnGrid s) (hr : s.rxState = .receiving) :
    DecoderOnGrid (appendEdge s.clock s) where
  recorded := fun k v hv => by
    rw [appendEdge_buf, Memory.read_write] at hv
    split at hv
    · exact Option.some.inj hv ▸ h.measuring hr
    · exact h.recorded k v hv
  measuring := fun _ => onGrid_sub_self _ _

/-- Outside `Receiving` nothing is being measured. -/
theorem decoderOnGrid_of_not_receiving {s t : State} (h : DecoderOnGrid s) (hcfg : t.cfg = s.cfg) (hb : t.buf = s.buf)
    (hr : t.rxState ≠ .receiving) : DecoderOnGrid t where
  recorded := fun k v hv => hcfg ▸ h.recorded k v (hb ▸ hv)
  measuring := fun h => absurd h hr

theorem decoderOnGrid_decoderUpdate {level : Bool} {s t : State} (h : DecoderOnGrid s)
    (ht : decoderUpdate s.clock level s = .next t) : DecoderOnGrid t := by
  rcases decoderUpdate_next ht with ⟨-, rfl⟩ | ⟨hr, rfl⟩ | ⟨-, u, hu, rfl⟩
  · unfold idleArm
    split
    · exact ⟨h.recorded, fun _ => onGrid_sub_self _ _⟩
    · exact h.congr rfl rfl rfl rfl rfl
  · rcases receivingArm_cases s.clock level s with ⟨-, -, e⟩ | ⟨-, -, e⟩ | ⟨-, -, -, e⟩ | ⟨-, -, -, e⟩ | ⟨-, -, e⟩ <;>
      rw [e]
    · exact (decoderOnGrid_appendEdge h hr).congr rfl rfl rfl rfl rfl
    · exact decoderOnGrid_of_not_receiving h rfl rfl (by simp)
    · exact decoderOnGrid_of_not_receiving h rfl rfl (by simp)
    · exact decoderOnGrid_of_not_receiving h rfl rfl (by simp)
    · exact h.congr rfl rfl rfl rfl rfl
  · rcases doneArm_next hu with ⟨-, rfl⟩ | ⟨c, -, -, rfl⟩ | ⟨c, v, -, -, hv, rfl⟩
    · exact decoderOnGrid_of_not_receiving h rfl rfl (by simp)
    · exact decoderOnGrid_of_not_receiving h rfl rfl (by simp)
    · rw [runCalls_frame hv]
      exact decoderOnGrid_of_not_receiving h rfl rfl (by simp)

/-! ### Both halves -/

/-- Fields the grid reads. -/
theorem TickGrid.congr {s t : State} (h : TickGrid s) (hcfg : t.cfg = s.cfg) (hclock : t.clock = s.clock)
    (hr : t.rxState = s.rxState) (hb : t.buf = s.buf) (he : t.edgeRef = s.edgeRef) (hch : t.ch = s.ch) :
    TickGrid t :=
  tickGrid_of_halves (h.decoder.congr hcfg hclock hr hb he) (by
    simpa [ChannelsOnGrid, hcfg, hclock, hch] using h.channels)

theorem tickGrid_takeReset (s : State) : TickGrid (takeReset s) where
  recorded := fun _ _ h => nomatch h
  measuring := fun h => nomatch h
  transitions := fun _ h => nomatch h
  phasesBounded := fun _ h => nomatch h

/-- A pass keeps both halves: its clock's advance wraps no duration, and pulse times, which the invariant bounds, let no
phase outlast the servo frame. -/
theorem tickGrid_tickPass {s t : State} {irIn : Bool} {missed : Nat} (hi : Inv s) (h : TickGrid s)
    (hlt : (missed + 1) * s.cfg.tickUs < 2 ^ 31) (ht : tickPass irIn missed s = .next t) : TickGrid t := by
  obtain ⟨u, hu, rfl⟩ := tickPass_next ht
  obtain ⟨-, hclock, -⟩ := decoderUpdate_frame hu
  have hdecoder : DecoderOnGrid u :=
    decoderOnGrid_decoderUpdate (decoderOnGrid_advanceClock hi h.decoder hlt) hu
  have hchannels : ChannelsOnGrid (pwmPeriodUs + (missed + 1) * s.cfg.tickUs) u :=
    channelsOnGrid_decoderUpdate (channelsOnGrid_advanceClock h.channels (by rw [pwmPeriodUs]; omega)) hu
  have hpulse : ∀ c ∈ u.ch, c.pulseTime.toNat ≤ pwmPeriodUs := fun c hc =>
    ((inv_passDecoder hi hu).pulseRange c hc).2.trans (by decide)
  rw [← hclock]
  exact tickGrid_of_halves (hdecoder.congr (by simp) (by simp) (by simp) (by simp) (by simp))
    (channelsOnGrid_schedulerUpdate hchannels hpulse)

theorem tickGrid_configureOp {s t : State} (h : TickGrid s) {n : Nat} (ht : configureOp n s = .next t) :
    TickGrid t := by
  refine tickGrid_of_halves ?_ (channelsOnGrid_configureOp h.channels ht)
  rcases configureOp_cases n s with ⟨-, e⟩ | ⟨-, -, e⟩ | ⟨-, -, e⟩ <;> rw [e] at ht <;> cases ht <;>
    exact h.decoder.congr rfl rfl rfl rfl rfl

theorem tickGrid_addOp {s t : State} (h : TickGrid s) {p : PinId} (ht : addOp p s = .next t) : TickGrid t := by
  refine tickGrid_of_halves ?_ (channelsOnGrid_addOp h.channels ht)
  rw [runCall_frame (op := .add p) ht]
  exact h.decoder.congr rfl rfl rfl rfl rfl

theorem tickGrid_setTargetOp {s : State} (h : TickGrid s) (k v : Int) : TickGrid (setTargetOp k v s) :=
  tickGrid_of_halves (h.decoder.congr (by simp) (by simp) (by simp) (by simp) (by simp))
    (channelsOnGrid_setTargetOp h.channels k v)

/-- Settles O4: one lemma for each thing a step can do (`step_cases`); the decoder's and the channels' durations apart. -/
theorem stepKeepsTickGrid : Obligations.StepKeepsTickGrid := by
  intro s t hi h hlt hstep
  obtain ⟨-, ⟨-, rfl⟩ | ⟨st, rest, hinbox, hcases⟩⟩ := step_cases hstep
  · exact h
  have h' : TickGrid { s with inbox := rest } := h.congr rfl rfl rfl rfl rfl rfl
  rcases hcases with rfl | rfl | ⟨r, rfl⟩ | ⟨r, rfl, hop, ht⟩ | ⟨n, ht⟩ | ⟨p, ht⟩ | ⟨k, v, rfl⟩ | ⟨g, rfl⟩
  · exact tickGrid_takeReset _
  · exact h'
  · exact h'.congr rfl rfl rfl rfl rfl rfl
  · exact tickGrid_tickPass (inv_inbox hi rest) h' (hlt r rest hinbox hop) ht
  · exact tickGrid_configureOp h' ht
  · exact tickGrid_addOp h' ht
  · exact tickGrid_setTargetOp h' k v
  · exact h'.congr rfl rfl rfl rfl rfl rfl

/-! ### Reset, and the entries of a frame -/

/-- Settles O2: reset is what port `rst` leaves of the state after reset, under a legal configuration. -/
theorem resetMeetsBothInvariants : Obligations.ResetMeetsBothInvariants :=
  ⟨inv_takeReset (s := State.reset) (by decide), tickGrid_takeReset State.reset⟩

/-- Settles O56: every entry of the frame is written, so no free value is read. -/
theorem unwrittenSlotsNeverMatter : Obligations.UnwrittenSlotsNeverMatter := by
  intro s any h
  refine List.map_congr_left fun k hk => ?_
  obtain ⟨v, hv⟩ := Option.isSome_iff_exists.1 (h.bufWritten k (List.mem_range.1 hk))
  rw [State.slot, hv, Option.getD_some, Option.getD_some]

end Sys2Proof.Machine

/-! The step: which stimulus runs what, what an evaluation leaves alone, and what every step keeps or only adds to. -/

namespace Sys2Proof.Machine

/-! ### A step by what its stimulus decodes to (R114) -/

section
variable {s : State} {st : Stimulus} {rest : List Stimulus}

theorem step_of_no_stimulus (hl : s.cfg.legal = true) (hin : s.inbox = []) : step s = .next s := by
  simp [step, hl, nextStimulus, hin]

theorem step_of_instr {i : Instr} (hl : s.cfg.legal = true) (hin : s.inbox = st :: rest)
    (hd : decode s.cfg st = .instr i) : step s = exec i { s with inbox := rest } := by
  simp [step, hl, nextStimulus, hin, hd]

theorem step_of_reset (hl : s.cfg.legal = true) (hin : s.inbox = .rst :: rest) :
    step s = .next (takeReset { s with inbox := rest }) := by
  simp [step, hl, nextStimulus, hin, decode]

theorem step_of_rejected {why : Reject} (hl : s.cfg.legal = true) (hin : s.inbox = st :: rest)
    (hd : decode s.cfg st = .rejected why) : step s = .next (takeReject why { s with inbox := rest }) := by
  simp [step, hl, nextStimulus, hin, hd]

end

/-- Settles O5: a step by the kind of what it takes; what a rejection leaves is `takeReject` of its reason. -/
theorem stepRunsTheDecodedStimulus : Obligations.StepRunsTheDecodedStimulus :=
  fun _ hl => ⟨step_of_no_stimulus hl, fun _ _ hin =>
    ⟨fun _ => step_of_instr hl hin, step_of_rejected hl hin, step_of_rejected hl hin, step_of_rejected hl hin⟩⟩

/-- Settles O1: the fields of `State.reset`, read off; the buffer is empty, so no slot is written. -/
theorem resetStateValues : Obligations.ResetStateValues :=
  ⟨rfl, rfl, fun _ => rfl, rfl, rfl, rfl, rfl, rfl, rfl, rfl, rfl, rfl, rfl, rfl⟩

/-- Settles O6: the step is `takeReset`, whose fields are those of the reset state but for the configuration and what the
environment holds. -/
theorem resetPortResets : Obligations.ResetPortResets :=
  fun _ _ hl hin =>
    ⟨_, step_of_reset hl hin, rfl, rfl, rfl, fun _ => rfl, rfl, rfl, rfl, rfl, rfl, rfl, rfl, rfl, rfl⟩

/-- Settles O7: each value outside its range makes the configuration illegal (`legal_iff`), and that is tested first. -/
theorem illegalConfigurationRefused : Obligations.IllegalConfigurationRefused := by
  intro s hout
  refine if_neg fun hl => ?_
  obtain ⟨hcap, htick, htol, hcomp, hup⟩ := (legal_iff s.cfg).1 hl
  rcases hout with h | h | h | h | h
  · omega
  · omega
  · omega
  · omega
  · exact h hup

/-- Settles O8: the decoder run on the words of the spec. -/
theorem specWordsDecode : Obligations.SpecWordsDecode := by
  unfold Obligations.SpecWordsDecode
  decide

/-! ### Evaluation (R150, R206) -/

/-- A row that only returns a value. -/
def EvaluatesOnly (i : Instr) : Prop := ∀ s, ∃ r, exec i s = .next { s with result := r }

theorem decodePayloadWord_evaluatesOnly (v : BitVec 32) : EvaluatesOnly (decodePayloadWord v) := by
  unfold decodePayloadWord commandRow
  split <;> exact fun _ => ⟨_, rfl⟩

theorem decodeEntry_evaluatesOnly {cfg : Config} {k : Nat} {d : U32} {i : Instr}
    (h : decodeEntry cfg k d = .instr i) : EvaluatesOnly i := by
  unfold decodeEntry at h
  split_ifs at h <;> cases h <;> exact fun _ => ⟨_, rfl⟩

theorem decodeFrame_evaluatesOnly {cfg : Config} {es : List U32} {i : Instr}
    (h : decodeFrame cfg es = .instr i) : EvaluatesOnly i := by
  unfold decodeFrame at h
  split_ifs at h <;> cases h <;> exact fun _ => ⟨_, rfl⟩

theorem decodeEntry_ne_reset (cfg : Config) (k : Nat) (d : U32) : decodeEntry cfg k d ≠ .reset := by
  unfold decodeEntry
  split_ifs <;> simp

theorem decodeFrame_ne_reset (cfg : Config) (es : List U32) : decodeFrame cfg es ≠ .reset := by
  unfold decodeFrame
  split_ifs <;> simp

/-- A rejected stimulus writes the result at most. -/
theorem takeReject_eq (why : Reject) (s : State) : ∃ r, takeReject why s = { s with result := r } := by
  cases why <;> exact ⟨_, rfl⟩

/-- A stimulus that is no reset and stands for nothing but evaluation leaves the block alone. -/
theorem step_of_evaluatesOnly {s : State} {st : Stimulus} {rest : List Stimulus} (hl : s.cfg.legal = true)
    (hin : s.inbox = st :: rest) (hreset : decode s.cfg st ≠ .reset)
    (heval : ∀ i, decode s.cfg st = .instr i → EvaluatesOnly i) :
    ∃ r, step s = .next { s with inbox := rest, result := r } := by
  cases hd : decode s.cfg st with
  | instr i =>
    obtain ⟨r, hr⟩ := heval i hd { s with inbox := rest }
    exact ⟨r, (step_of_instr hl hin hd).trans hr⟩
  | reset => exact absurd hd hreset
  | rejected why =>
    obtain ⟨r, hr⟩ := takeReject_eq why { s with inbox := rest }
    exact ⟨r, (step_of_rejected hl hin hd).trans (congrArg _ hr)⟩

/-- Settles O11: what each of the three kinds of stimulus decodes to only returns a value. -/
theorem evaluationLeavesTheBlockAlone : Obligations.EvaluationLeavesTheBlockAlone := by
  rintro s st rest hl hin (⟨v, rfl⟩ | ⟨k, d, rfl⟩ | ⟨es, rfl⟩)
  · refine step_of_evaluatesOnly hl hin (by simp [decode]) fun i hi => ?_
    exact Decoded.instr.inj hi ▸ decodePayloadWord_evaluatesOnly v
  · exact step_of_evaluatesOnly hl hin (decodeEntry_ne_reset _ k d) fun i hi => decodeEntry_evaluatesOnly hi
  · exact step_of_evaluatesOnly hl hin (decodeFrame_ne_reset _ es) fun i hi => decodeFrame_evaluatesOnly hi

/-! ### The configuration (R36) -/

theorem configureOp_cfg {n : Nat} {s t : State} (h : configureOp n s = .next t) : t.cfg = s.cfg := by
  rcases configureOp_cases n s with ⟨-, e⟩ | ⟨-, -, e⟩ | ⟨-, -, e⟩ <;> rw [e] at h <;> cases h <;> rfl

theorem addOp_cfg {p : PinId} {s t : State} (h : addOp p s = .next t) : t.cfg = s.cfg := by
  rw [runCall_frame (op := .add p) h]

/-- Settles O52: no case of `step_cases` writes the configuration. -/
theorem configurationIsConstant : Obligations.ConfigurationIsConstant := by
  intro s t hstep
  obtain ⟨-, ⟨-, rfl⟩ | ⟨st, rest, -, hcases⟩⟩ := step_cases hstep
  · rfl
  rcases hcases with rfl | rfl | ⟨r, rfl⟩ | ⟨r, -, -, ht⟩ | ⟨n, ht⟩ | ⟨p, ht⟩ | ⟨k, v, rfl⟩ | ⟨g, rfl⟩
  · rfl
  · rfl
  · rfl
  · obtain ⟨hcfg, -⟩ := exec_tick_cfg_clock ht
    exact hcfg
  · exact configureOp_cfg (s := { s with inbox := rest }) ht
  · exact addOp_cfg (s := { s with inbox := rest }) ht
  · exact setTargetOp_cfg _ k v
  · rfl

/-! ### What is only added to: the events and the returned results (R42) -/

/-- `new` is `old` with elements that satisfy `P` added at its end. -/
def Appends {α : Type} (P : α → Prop) (old new : List α) : Prop :=
  ∃ added, new = old ++ added ∧ ∀ a ∈ added, P a

theorem Appends.refl {α : Type} (P : α → Prop) (l : List α) : Appends P l l :=
  ⟨[], (List.append_nil l).symm, fun _ h => nomatch h⟩

theorem Appends.trans {α : Type} {P : α → Prop} {a b c : List α} (h : Appends P a b) (h' : Appends P b c) :
    Appends P a c := by
  obtain ⟨x, rfl, hx⟩ := h
  obtain ⟨y, rfl, hy⟩ := h'
  exact ⟨x ++ y, List.append_assoc a x y, List.forall_mem_append.2 ⟨hx, hy⟩⟩

theorem Appends.singleton {α : Type} {P : α → Prop} (l : List α) {a : α} (h : P a) : Appends P l (l ++ [a]) :=
  ⟨[a], rfl, fun _ hb => List.mem_singleton.1 hb ▸ h⟩

theorem Appends.imp {α : Type} {P Q : α → Prop} {a b : List α} (h : Appends P a b) (hPQ : ∀ x, P x → Q x) :
    Appends Q a b := by
  obtain ⟨x, rfl, hx⟩ := h
  exact ⟨x, rfl, fun y hy => hPQ y (hx y hy)⟩

/-- An event of this clock that announces no command. -/
def QuietAt (clock : U32) (e : U32 × Event) : Prop := e.1 = clock ∧ e.2.isCommand = false

/-- What an operation at `clock` may add: quiet events and results, both stamped with it. -/
structure GrewQuietly (clock : U32) (s t : State) : Prop where
  clockKept : t.clock = clock
  trace : Appends (QuietAt clock) s.trace t.trace
  returns : Appends (fun r => r.1 = clock) s.returns t.returns

theorem grewQuietly_of_eq {s t : State} (hc : t.clock = s.clock) (ht : t.trace = s.trace) (hr : t.returns = s.returns) :
    GrewQuietly s.clock s t :=
  ⟨hc, ht ▸ Appends.refl _ _, hr ▸ Appends.refl _ _⟩

theorem GrewQuietly.trans {clock : U32} {s t u : State} (h : GrewQuietly clock s t) (h' : GrewQuietly clock t u) :
    GrewQuietly clock s u :=
  ⟨h'.clockKept, h.trace.trans h'.trace, h.returns.trans h'.returns⟩

theorem grewQuietly_returnResult (s : State) (r : Result) : GrewQuietly s.clock s (s.returnResult r) :=
  ⟨rfl, Appends.refl _ _, Appends.singleton _ rfl⟩

theorem grewQuietly_setTargetOp (k v : Int) (s : State) : GrewQuietly s.clock s (setTargetOp k v s) :=
  grewQuietly_of_eq (setTargetOp_clock s k v) (setTargetOp_trace s k v) (setTargetOp_returns s k v)

theorem grewQuietly_configureOp {n : Nat} {s t : State} (h : configureOp n s = .next t) : GrewQuietly s.clock s t := by
  rcases configureOp_cases n s with ⟨-, e⟩ | ⟨-, -, e⟩ | ⟨-, -, e⟩ <;> rw [e] at h <;> cases h
  · exact grewQuietly_returnResult s _
  · exact ⟨rfl, Appends.refl _ _, Appends.singleton _ rfl⟩

/-- A new channel's two events are its pin's mode and its first level. -/
theorem grewQuietly_registerChannel (p : PinId) (s : State) : GrewQuietly s.clock s (registerChannel p s) :=
  ⟨rfl, (Appends.singleton _ ⟨rfl, rfl⟩).trans (Appends.singleton _ ⟨rfl, rfl⟩), Appends.singleton _ rfl⟩

theorem grewQuietly_addOp {p : PinId} {s t : State} (h : addOp p s = .next t) : GrewQuietly s.clock s t := by
  rcases addOp_cases p s with ⟨-, e⟩ | ⟨-, -, e⟩ | ⟨-, -, -, e⟩ | ⟨-, -, -, e⟩ <;> rw [e] at h <;> cases h
  · exact grewQuietly_returnResult s _
  · exact grewQuietly_registerChannel p s

theorem grewQuietly_runCalls {ops : List HandlerOp} {s t : State} (h : runCalls ops s = .next t) :
    GrewQuietly s.clock s t := by
  refine runCalls_induction (P := GrewQuietly s.clock s) (fun k v u hu => hu.trans ?_) (fun p u w hu hw => hu.trans ?_)
    h (grewQuietly_of_eq rfl rfl rfl)
  · exact hu.clockKept ▸ grewQuietly_setTargetOp k v u
  · exact hu.clockKept ▸ grewQuietly_addOp hw

theorem turnEvents_not_command (now : U32) (cs : List Channel) : ∀ e ∈ turnEvents now cs, e.isCommand = false := by
  induction cs with
  | nil => exact fun _ h => nomatch h
  | cons c cs ih =>
    unfold turnEvents
    split
    · exact ih
    · exact List.forall_mem_cons.2 ⟨rfl, ih⟩

theorem schedulerUpdate_trace (now : U32) (s : State) :
    (schedulerUpdate now s).trace = s.trace ++ (turnEvents now s.ch).map (fun e => (s.clock, e)) := by
  rw [schedulerUpdate_eq]

theorem grewQuietly_schedulerUpdate (now : U32) (s : State) : GrewQuietly s.clock s (schedulerUpdate now s) where
  clockKept := schedulerUpdate_clock now s
  trace := ⟨_, schedulerUpdate_trace now s, by
    intro e he
    obtain ⟨x, hx, rfl⟩ := List.mem_map.1 he
    exact ⟨rfl, turnEvents_not_command now s.ch x hx⟩⟩
  returns := (schedulerUpdate_returns now s) ▸ Appends.refl _ _

/-! ### What a decoder update announces (R127, D12) -/

/-- Outside `Done`, or on `Unknown`, nothing is announced and the cache stays. -/
theorem decoderUpdate_quiet {now : U32} {level : Bool} {s t : State} (h : decoderUpdate now level s = .next t)
    (hq : s.rxState ≠ .done ∨ decodeNec s.cfg s.entries s.lastCmd = none) :
    t.lastCmd = s.lastCmd ∧ GrewQuietly s.clock s t := by
  rcases decoderUpdate_next h with ⟨-, rfl⟩ | ⟨-, rfl⟩ | ⟨hr, u, hu, rfl⟩
  · unfold idleArm
    split <;> exact ⟨rfl, grewQuietly_of_eq rfl rfl rfl⟩
  · rcases receivingArm_cases now level s with ⟨-, -, e⟩ | ⟨-, -, e⟩ | ⟨-, -, -, e⟩ | ⟨-, -, -, e⟩ | ⟨-, -, e⟩ <;>
      rw [e]
    · exact ⟨rfl, grewQuietly_of_eq rfl rfl rfl⟩
    · exact ⟨rfl, rfl, Appends.singleton _ ⟨rfl, rfl⟩, Appends.refl _ _⟩
    · exact ⟨rfl, grewQuietly_of_eq rfl rfl rfl⟩
    · exact ⟨rfl, grewQuietly_of_eq rfl rfl rfl⟩
    · exact ⟨rfl, grewQuietly_of_eq rfl rfl rfl⟩
  · have hnone := hq.resolve_left (not_not_intro hr)
    rw [doneArm_unknown hnone] at hu
    cases hu
    exact ⟨rfl, grewQuietly_of_eq rfl rfl rfl⟩

/-- In `Done` on a known command, that command is cached and announced, and what follows is quiet. -/
theorem decoderUpdate_command {now : U32} {level : Bool} {c : Command} {s t : State}
    (h : decoderUpdate now level s = .next t) (hr : s.rxState = .done)
    (hc : decodeNec s.cfg s.entries s.lastCmd = some c) :
    t.lastCmd = some c ∧ GrewQuietly s.clock (announceCommand c s) t := by
  rw [decoderUpdate_done hr, andThen_eq_next] at h
  obtain ⟨u, hu, ht⟩ := h
  cases ht
  rcases doneArm_next hu with ⟨hnone, -⟩ | ⟨d, hd, -, rfl⟩ | ⟨d, v, hd, -, hv, rfl⟩
  · rw [hc] at hnone
    cases hnone
  · cases hc.symm.trans hd
    exact ⟨rfl, grewQuietly_of_eq (s := announceCommand c s) rfl rfl rfl⟩
  · cases hc.symm.trans hd
    have hgrew := grewQuietly_runCalls hv
    refine ⟨?_, hgrew.clockKept, hgrew.trace, hgrew.returns⟩
    rw [runCalls_frame hv]
    rfl

/-- A pass announces a command, in `Done` on a known one, or it is quiet: the scheduler's events are never commands. -/
theorem tickPass_announces {irIn : Bool} {missed : Nat} {s t : State} (h : tickPass irIn missed s = .next t) :
    ((s.rxState ≠ .done ∨ decodeNec s.cfg s.entries s.lastCmd = none) ∧ t.lastCmd = s.lastCmd ∧
      GrewQuietly (s.advanceClock (missed + 1)).clock s t) ∨
    (∃ c, s.rxState = .done ∧ decodeNec s.cfg s.entries s.lastCmd = some c ∧ t.lastCmd = some c ∧
      GrewQuietly (s.advanceClock (missed + 1)).clock (announceCommand c (s.advanceClock (missed + 1))) t) := by
  obtain ⟨u, hu, rfl⟩ := tickPass_next h
  have hturns := grewQuietly_schedulerUpdate (s.advanceClock (missed + 1)).clock u
  rw [schedulerUpdate_lastCmd]
  by_cases hq : s.rxState ≠ .done ∨ decodeNec s.cfg s.entries s.lastCmd = none
  case pos =>
    obtain ⟨hlast, hgrew⟩ := decoderUpdate_quiet hu hq
    obtain ⟨hclock, htrace, hreturns⟩ := hgrew.trans (hgrew.clockKept ▸ hturns)
    exact .inl ⟨hq, hlast, hclock, htrace, hreturns⟩
  case neg =>
    obtain ⟨hr, hne⟩ := not_or.1 hq
    obtain ⟨c, hc⟩ := Option.ne_none_iff_exists'.1 hne
    obtain ⟨hlast, hgrew⟩ := decoderUpdate_command (s := s.advanceClock (missed + 1)) hu (not_not.1 hr) hc
    exact .inr ⟨c, not_not.1 hr, hc, hlast, hgrew.trans (hgrew.clockKept ▸ hturns)⟩

theorem filter_isCommand_of_quiet {clock : U32} {es : List (U32 × Event)} (h : ∀ e ∈ es, QuietAt clock e) :
    es.filter (fun e => e.2.isCommand) = [] :=
  List.filter_eq_nil_iff.2 fun e he => by simp [(h e he).2]

/-- Settles O51: the two cases of `tickPass_announces`; what is quiet holds no command. -/
theorem commandsComeOnlyFromDone : Obligations.CommandsComeOnlyFromDone := by
  intro s t irIn missed h
  rcases tickPass_announces h with
    ⟨hq, hlast, -, ⟨new, hnew, hquiet⟩, -⟩ | ⟨c, hr, hc, hlast, hclock, ⟨new, hnew, hquiet⟩, -⟩
  · refine ⟨new, hnew, fun _ => ⟨hlast, filter_isCommand_of_quiet hquiet⟩, fun hr c hc => ?_⟩
    simp [hr, hc] at hq
  · refine ⟨((s.advanceClock (missed + 1)).clock, .command c) :: new, ?_, fun hq => ?_, fun _ d hd => ?_⟩
    · rw [hnew, announceCommand_trace, List.append_assoc]
      rfl
    · simp [hr, hc] at hq
    · cases hc.symm.trans hd
      rw [List.filter_cons_of_pos rfl, hclock, filter_isCommand_of_quiet hquiet]
      exact ⟨hlast, rfl⟩

/-- A pass stamps what it adds with the clock it writes. -/
theorem tickPass_appends {irIn : Bool} {missed : Nat} {s t : State} (h : tickPass irIn missed s = .next t) :
    Appends (fun e => e.1 = t.clock) s.trace t.trace ∧ Appends (fun r => r.1 = t.clock) s.returns t.returns := by
  rcases tickPass_announces h with ⟨-, -, hclock, htrace, hreturns⟩ | ⟨c, -, -, -, hclock, htrace, hreturns⟩ <;>
    rw [hclock]
  · exact ⟨htrace.imp fun _ he => he.1, hreturns⟩
  · have htold : Appends (fun e => e.1 = (s.advanceClock (missed + 1)).clock) s.trace
        (announceCommand c (s.advanceClock (missed + 1))).trace := Appends.singleton _ rfl
    exact ⟨htold.trans (htrace.imp fun _ he => he.1), hreturns⟩

theorem GrewQuietly.stamped {s t : State} (h : GrewQuietly s.clock s t) :
    Appends (fun e => e.1 = t.clock) s.trace t.trace ∧ Appends (fun r => r.1 = t.clock) s.returns t.returns := by
  rw [h.clockKept]
  exact ⟨h.trace.imp fun _ he => he.1, h.returns⟩

/-- Settles O53: every case of `step_cases` only adds, at the clock it leaves; reset adds nothing. -/
theorem traceOnlyGrows : Obligations.TraceOnlyGrows := by
  intro s t hstep
  obtain ⟨-, ⟨-, rfl⟩ | ⟨st, rest, -, hcases⟩⟩ := step_cases hstep
  · exact ⟨Appends.refl _ _, Appends.refl _ _⟩
  rcases hcases with rfl | rfl | ⟨r, rfl⟩ | ⟨r, -, -, ht⟩ | ⟨n, ht⟩ | ⟨p, ht⟩ | ⟨k, v, rfl⟩ | ⟨g, rfl⟩
  · exact ⟨Appends.refl _ _, Appends.refl _ _⟩
  · exact ⟨Appends.refl _ _, Appends.refl _ _⟩
  · exact ⟨Appends.refl _ _, Appends.refl _ _⟩
  · exact tickPass_appends (s := { s with inbox := rest }) ht
  · exact (grewQuietly_configureOp (s := { s with inbox := rest }) ht).stamped
  · exact (grewQuietly_addOp (s := { s with inbox := rest }) ht).stamped
  · exact (grewQuietly_setTargetOp k v { s with inbox := rest }).stamped
  · exact ⟨Appends.refl _ _, Appends.refl _ _⟩

/-! ### Where a pass fails (R129, R190) -/

/-- A refused call is a forbidden one, or an `add` of a shared pin. -/
theorem runCalls_refused {ops : List HandlerOp} {s : State} {r : Refusal} (h : runCalls ops s = .refused r) :
    (∃ call, r = .handlerReentry call ∧ .forbidden call ∈ ops) ∨
      (∃ p, .add p ∈ ops ∧ (r = .pinInUse ∨ r = .pinIsIrPin)) := by
  induction ops generalizing s with
  | nil => cases h
  | cons op ops ih =>
    rcases andThen_eq_refused.1 h with hop | ⟨u, -, hops⟩
    · cases op with
      | setTarget k v => cases hop
      | add p =>
        refine .inr ⟨p, List.mem_cons_self, ?_⟩
        rcases addOp_cases p s with ⟨-, e⟩ | ⟨-, -, e⟩ | ⟨-, -, -, e⟩ | ⟨-, -, -, e⟩ <;> rw [runCall, e] at hop <;>
          cases hop
        · exact .inr rfl
        · exact .inl rfl
      | forbidden call =>
        cases hop
        exact .inl ⟨call, rfl, List.mem_cons_self⟩
    · rcases ih hops with ⟨call, hr, hmem⟩ | ⟨p, hmem, hr⟩
      · exact .inl ⟨call, hr, List.mem_cons_of_mem op hmem⟩
      · exact .inr ⟨p, List.mem_cons_of_mem op hmem, hr⟩

theorem exists_setTarget_of_onlySetsTargets {g : Handler} {c : Command} (h : onlySetsTargets g c = true) :
    ∀ op ∈ handlerCalls g c, ∃ k v, op = .setTarget k v := by
  intro op hop
  have hok := List.all_eq_true.1 h op hop
  cases op with
  | setTarget k v => exact ⟨k, v, rfl⟩
  | add p => cases hok
  | forbidden call => cases hok

/-- A pass is completed, or it stands or falls with the window of a registered handler on a known command. -/
theorem exec_tick_completes_or_handled (s : State) (irIn : Bool) (missed : Nat) :
    (∃ t, exec (.tick irIn missed) s = .next t) ∨
      (s.rxState = .done ∧ s.handlerSet = true ∧ ∃ c, decodeNec s.cfg s.entries s.lastCmd = some c ∧
        ∃ f : State → State, exec (.tick irIn missed) s =
          andThen (runCalls (handlerCalls s.handler c) (announceCommand c (s.advanceClock (missed + 1))))
            (fun u => .next (f u))) := by
  cases hr : s.rxState with
  | idle => exact .inl ⟨_, exec_tick_idle hr rfl⟩
  | receiving => exact .inl ⟨_, exec_tick_receiving hr rfl⟩
  | done =>
    cases hc : decodeNec s.cfg s.entries s.lastCmd with
    | none => exact .inl ⟨_, exec_tick_unknown hr rfl hc⟩
    | some c =>
      cases hs : s.handlerSet with
      | false => exact .inl ⟨_, exec_tick_unhandled hr rfl hc hs⟩
      | true =>
        refine .inr ⟨rfl, rfl, c, rfl,
          fun u => turnChannels (s.advanceClock (missed + 1)).clock ((leaveDone u).sample irIn), ?_⟩
        rw [exec_tick_handled hr rfl hc hs]
        rw [exec_decHandlerWindow (s := announceCommand c (s.advanceClock _)) hr hs]
        rfl

/-- Settles O50: only the handler's window can refuse, and only by one of its calls (`runCalls_refused`); targets are never
refused (`runCalls_setTargets`). -/
theorem passesFailOnlyInTheHandler : Obligations.PassesFailOnlyInTheHandler := by
  intro s irIn missed
  rcases exec_tick_completes_or_handled s irIn missed with ⟨t, ht⟩ | ⟨hr, hs, c, hc, f, hexec⟩
  · exact ⟨fun r hrefused => (nomatch ht.symm.trans hrefused), fun _ => ⟨t, ht⟩⟩
  · refine ⟨fun r hrefused => ?_, fun honly => ?_⟩
    · rw [hexec] at hrefused
      rcases andThen_eq_refused.1 hrefused with hcalls | ⟨u, -, hu⟩
      · exact ⟨hr, hs, c, hc, runCalls_refused hcalls⟩
      · cases hu
    · obtain ⟨u, hu⟩ := runCalls_setTargets (s := announceCommand c (s.advanceClock (missed + 1)))
        (exists_setTarget_of_onlySetsTargets (honly hr hs c hc))
      exact ⟨f u, by rw [hexec, hu, andThen_next]⟩

end Sys2Proof.Machine

/-! The encoder and the decoder agree: decoding what encodes an instruction gives it back, and what decodes is well
formed. -/

namespace Sys2Proof.Machine

/-! ### Payload words (R88, R93) -/

/-- Bit `i` of a word given as its upper half and its two lower bytes. -/
theorem getLsbD_halves (hi : BitVec 16) (b0 b1 : Byte) (i : Nat) :
    BitVec.getLsbD (w := 16 + 8 + 8) (hi ++ b1 ++ b0) i =
      if i < 8 then b0.getLsbD i else if i - 8 < 8 then b1.getLsbD (i - 8) else hi.getLsbD (i - 8 - 8) := by
  rw [BitVec.getLsbD_append, BitVec.getLsbD_append]

theorem payB0_halves (hi : BitVec 16) (b0 b1 : Byte) : payB0 (hi ++ b1 ++ b0) = b0 := by
  refine BitVec.eq_of_getLsbD_eq fun i hi8 => ?_
  rw [payB0, BitVec.getLsbD_extractLsb', getLsbD_halves, if_pos (by omega)]
  simp [hi8]

theorem payB1_halves (hi : BitVec 16) (b0 b1 : Byte) : payB1 (hi ++ b1 ++ b0) = b1 := by
  refine BitVec.eq_of_getLsbD_eq fun i hi8 => ?_
  rw [payB1, BitVec.getLsbD_extractLsb', getLsbD_halves, if_neg (by omega), if_pos (by omega)]
  simp [hi8]

theorem upperHalf_halves (hi : BitVec 16) (b0 b1 : Byte) :
    (hi ++ b1 ++ b0 : BitVec 32).extractLsb' 16 16 = hi := by
  refine BitVec.eq_of_getLsbD_eq fun i hi16 => ?_
  rw [BitVec.getLsbD_extractLsb', getLsbD_halves, if_neg (by omega), if_neg (by omega)]
  simp [hi16, show 16 + i - 8 - 8 = i by omega]

/-- A word is its upper half and its two lower bytes. -/
theorem halves_eq (v : BitVec 32) : (v.extractLsb' 16 16 ++ payB1 v ++ payB0 v : BitVec 32) = v := by
  refine BitVec.eq_of_getLsbD_eq fun i hi => ?_
  rw [getLsbD_halves, payB0, payB1]
  simp only [BitVec.getLsbD_extractLsb']
  by_cases h8 : i < 8
  · simp [h8]
  · by_cases h16 : i - 8 < 8
    · simp [h8, h16, show 8 + (i - 8) = i by omega]
    · simp [h8, h16, show 16 + (i - 8 - 8) = i by omega, show i - 8 - 8 < 16 by omega]

theorem decode_commandWord {hi : BitVec 16} {b0 b1 : Byte} {i : Instr} (cfg : Config)
    (h : commandRow hi b0 b1 = some i) : decode cfg (commandWord hi b0 b1) = .instr i := by
  rw [commandWord, decode, decodePayloadWord, payB0_halves, payB1_halves, upperHalf_halves, h, Option.getD_some]

/-- The `CMD` rows are encoded by the halves that select them, and have no ill-formed operands. -/
theorem encode_of_commandRow {hi : BitVec 16} {b0 b1 : Byte} {i : Instr} (cfg : Config)
    (h : commandRow hi b0 b1 = some i) : encode i = some (commandWord hi b0 b1) ∧ wellFormed cfg i = true := by
  have hhi : hi = BitVec.ofNat 16 hi.toNat := by simp
  unfold commandRow at h
  generalize hi.toNat = n at h hhi
  subst hhi
  split at h <;> cases h <;> exact ⟨rfl, rfl⟩

/-- `cmdHighHalves` lists the upper halves that select a `CMD` row. -/
theorem commandRow_isSome_iff (hi : BitVec 16) (b0 b1 : Byte) :
    (commandRow hi b0 b1).isSome = true ↔ hi ∈ cmdHighHalves := by
  constructor
  · intro h
    have hhi : hi = BitVec.ofNat 16 hi.toNat := by simp
    unfold commandRow at h
    generalize hi.toNat = n at h hhi
    subst hhi
    split at h
    case h_18 => cases h
    all_goals decide
  · have hall : cmdHighHalves.all (fun hi => (commandRow hi b0 b1).isSome) = true := rfl
    exact List.all_eq_true.1 hall hi

theorem wellFormed_necPayload_iff (cfg : Config) (v : BitVec 32) :
    wellFormed cfg (.necPayload v) = true ↔ commandRow (v.extractLsb' 16 16) (payB0 v) (payB1 v) = none := by
  rw [← Option.not_isSome_iff_eq_none, commandRow_isSome_iff]
  simp [wellFormed]

theorem encode_decodePayloadWord (cfg : Config) (v : BitVec 32) :
    encode (decodePayloadWord v) = some (.payload v) ∧ wellFormed cfg (decodePayloadWord v) = true := by
  unfold decodePayloadWord
  cases hrow : commandRow (v.extractLsb' 16 16) (payB0 v) (payB1 v) with
  | none => exact ⟨rfl, (wellFormed_necPayload_iff cfg v).2 hrow⟩
  | some i =>
    obtain ⟨henc, hwf⟩ := encode_of_commandRow cfg hrow
    rw [commandWord, halves_eq] at henc
    exact ⟨henc, hwf⟩

/-! ### Lists of entries (R83 to R85) -/

theorem isRepeatCandidate_of_isRepeatFrame {cfg : Config} {es : List U32} (h : isRepeatFrame cfg es = true) :
    isRepeatCandidate cfg es = true := by
  simp only [isRepeatFrame, Bool.and_eq_true] at h
  obtain ⟨⟨hcandidate, -⟩, -⟩ := h
  exact hcandidate

theorem dataCandidate_of_isSome {cfg : Config} {es : List U32} (h : (dataFrameBits cfg es).isSome = true) :
    DataCandidate cfg es := by
  by_contra hc
  rw [dataFrameBits_of_not_candidate hc] at h
  cases h

theorem decodeFrame_repeatFrame {cfg : Config} {es : List U32} (h : isRepeatFrame cfg es = true) :
    decodeFrame cfg es = .instr (.repeatFrame es) := by
  rw [decodeFrame, if_pos (isRepeatCandidate_of_isRepeatFrame h), if_pos h]

theorem decodeFrame_dataFrame {cfg : Config} {es : List U32} (h : (dataFrameBits cfg es).isSome = true) :
    decodeFrame cfg es = .instr (.dataFrame es) := by
  have hnot := isRepeatCandidate_of_not_rptSpace (dataCandidate_of_isSome h).notRepeat
  rw [decodeFrame, if_neg (Bool.eq_false_iff.1 hnot), if_pos h]

/-! ### Decoding what was encoded -/

/-- Settles O9: the symbols by their windows, the frames by `decodeFrame_repeatFrame` and `decodeFrame_dataFrame`, the
payloads by the row their upper half selects, the operations by their ports' widths. -/
theorem decodeOfEncode : Obligations.DecodeOfEncode := by
  intro cfg i st hwf henc
  cases i with
  | hdrMark d | rptSpace d | bitMark d | oneSpace d =>
    cases henc
    simp only [wellFormed] at hwf
    simp [decode, decodeEntry, hwf]
  | hdrSpace d | zeroSpace d =>
    cases henc
    simp only [wellFormed, Bool.and_eq_true, Bool.not_eq_true'] at hwf
    simp [decode, decodeEntry, hwf]
  | repeatFrame es =>
    cases henc
    exact decodeFrame_repeatFrame hwf
  | dataFrame es =>
    cases henc
    exact decodeFrame_dataFrame hwf
  | necPayload v =>
    cases henc
    rw [decode, decodePayloadWord, (wellFormed_necPayload_iff cfg v).1 hwf, Option.getD_none]
  | cmdUp | cmdDown | cmdLeft | cmdRight | cmdOk | cmdDigit1 | cmdDigit2 | cmdDigit3 | cmdDigit4 | cmdDigit5
  | cmdDigit6 | cmdDigit7 | cmdDigit8 | cmdDigit9 | cmdDigit0 | cmdStar | cmdPound =>
    cases henc
    exact decode_commandWord cfg rfl
  | tick | add | onReceive =>
    cases henc
    rfl
  | configure n =>
    cases henc
    simp only [wellFormed, decide_eq_true_eq] at hwf
    have hindex : (BitVec.ofNat 16 n).toNat = n := (BitVec.toNat_ofNat n 16).trans (Nat.mod_eq_of_lt hwf)
    show Decoded.instr (.configure (BitVec.ofNat 16 n).toNat) = .instr (.configure n)
    rw [hindex]
  | setTarget k v =>
    cases henc
    simp only [wellFormed, Bool.and_eq_true, decide_eq_true_eq] at hwf
    obtain ⟨⟨⟨hk0, hk⟩, hv0⟩, hv⟩ := hwf
    have hindex : ((BitVec.ofInt 16 k).toNat : Int) = k := by
      rw [BitVec.toNat_ofInt]
      omega
    have hvalue : (BitVec.ofInt 16 v).toInt = v := by
      rw [BitVec.toInt_ofInt]
      exact Int.bmod_eq_of_le (by omega) (by omega)
    show Decoded.instr (.setTarget (BitVec.ofInt 16 k).toNat (BitVec.ofInt 16 v).toInt) = .instr (.setTarget k v)
    rw [hindex, hvalue]
  | _ => cases henc

/-! ### What decodes is well formed -/

theorem wellFormed_of_decodeOp {cfg : Config} {r : OpRequest} {i : Instr} (h : decodeOp r = .instr i) :
    wellFormed cfg i = true := by
  unfold decodeOp at h
  split at h <;> cases h
  · rfl
  · exact decide_eq_true r.opIndex.isLt
  · rfl
  · have hindex := r.opIndex.isLt
    have hlo := r.opValue.le_toInt
    have hhi := r.opValue.toInt_lt
    simp only [wellFormed, Bool.and_eq_true, decide_eq_true_eq]
    omega
  · rfl

theorem wellFormed_of_decodeEntry {cfg : Config} {k : Nat} {d : U32} {i : Instr}
    (h : decodeEntry cfg k d = .instr i) : wellFormed cfg i = true := by
  unfold decodeEntry at h
  split_ifs at h <;> cases h <;> simp_all [wellFormed]

theorem wellFormed_of_decodeFrame {cfg : Config} {es : List U32} {i : Instr} (h : decodeFrame cfg es = .instr i) :
    wellFormed cfg i = true ∧ encode i = some (.frame es) := by
  unfold decodeFrame at h
  split_ifs at h with hcandidate hrepeat hdata <;> cases h
  · exact ⟨hrepeat, rfl⟩
  · exact ⟨hdata, rfl⟩

/-- Settles O10: the kinds of stimulus one by one; a payload and a frame are what their instruction is encoded to. -/
theorem encodeOfDecode : Obligations.EncodeOfDecode := by
  intro cfg st i h
  have hinternal := decode_not_internal h
  cases st with
  | rst => cases h
  | op r => exact ⟨wellFormed_of_decodeOp h, hinternal, fun _ hv => (nomatch hv), fun _ hes => (nomatch hes)⟩
  | payload v =>
    cases h
    obtain ⟨henc, hwf⟩ := encode_decodePayloadWord cfg v
    exact ⟨hwf, hinternal, fun _ hv => Stimulus.payload.inj hv ▸ henc, fun _ hes => (nomatch hes)⟩
  | entry k d => exact ⟨wellFormed_of_decodeEntry h, hinternal, fun _ hv => (nomatch hv), fun _ hes => (nomatch hes)⟩
  | frame es =>
    obtain ⟨hwf, henc⟩ := wellFormed_of_decodeFrame h
    exact ⟨hwf, hinternal, fun _ hv => (nomatch hv), fun _ hes => Stimulus.frame.inj hes ▸ henc⟩

end Sys2Proof.Machine

/-! The symbols' windows, and what data frames, payloads and commands yield. -/

namespace Sys2Proof.Machine

/-! ### The rows that return a truth value -/

theorem exec_hdrMark (d : U32) (s : State) :
    exec (.hdrMark d) s = .next { s with result := .truth (matchesMark s.cfg d 9000) } := rfl
theorem exec_hdrSpace (d : U32) (s : State) :
    exec (.hdrSpace d) s = .next { s with result := .truth (matchesSpace s.cfg d 4500) } := rfl
theorem exec_rptSpace (d : U32) (s : State) :
    exec (.rptSpace d) s = .next { s with result := .truth (matchesSpace s.cfg d 2250) } := rfl
theorem exec_bitMark (d : U32) (s : State) :
    exec (.bitMark d) s = .next { s with result := .truth (matchesMark s.cfg d 560) } := rfl
theorem exec_oneSpace (d : U32) (s : State) :
    exec (.oneSpace d) s = .next { s with result := .truth (matchesSpace s.cfg d 1690) } := rfl
theorem exec_zeroSpace (d : U32) (s : State) :
    exec (.zeroSpace d) s = .next { s with result := .truth (matchesSpace s.cfg d 560) } := rfl
theorem exec_matchesMark (d : U32) (e : Nat) (s : State) :
    exec (.matchesMark d e) s = .next { s with result := .truth (matchesMark s.cfg d e) } := rfl
theorem exec_matchesSpace (d : U32) (e : Nat) (s : State) :
    exec (.matchesSpace d e) s = .next { s with result := .truth (matchesSpace s.cfg d e) } := rfl
theorem exec_inWindow (c e : Nat) (s : State) :
    exec (.inWindow c e) s = .next { s with result := .truth (inWindow s.cfg c e) } := rfl

/-! ### Windows as comparisons of numbers (R142 to R146) -/

theorem inWindow_iff (cfg : Config) (c e : Nat) :
    inWindow cfg c e = true ↔ (100 - cfg.tolPct) * e ≤ 100 * c ∧ 100 * c ≤ (100 + cfg.tolPct) * e := by
  rw [inWindow, Bool.and_eq_true, decide_eq_true_iff, decide_eq_true_iff]

/-- The lower bound over the integers: where the tolerance is above 100 it is negative, and the truncated one 0. -/
theorem lowerBound_int (tol c e : Nat) :
    (100 - tol) * e ≤ 100 * c ↔ (100 - (tol : Int)) * e ≤ 100 * c := by
  rcases Nat.le_total tol 100 with hle | hge
  · zify [hle]
  · have hneg : (100 - (tol : Int)) * e ≤ 0 := mul_nonpos_of_nonpos_of_nonneg (by omega) (by omega)
    rw [Nat.sub_eq_zero_of_le hge, Nat.zero_mul]
    omega

theorem inWindow_eq_int (cfg : Config) (c e : Nat) :
    inWindow cfg c e =
      decide ((100 - (cfg.tolPct : Int)) * e ≤ 100 * (c : Int) ∧ 100 * (c : Int) ≤ (100 + (cfg.tolPct : Int)) * e) := by
  rw [Bool.eq_iff_iff, inWindow_iff, decide_eq_true_iff, lowerBound_int]
  exact and_congr_right fun _ => by norm_cast

theorem matchesMark_iff (cfg : Config) (d : U32) (e : Nat) :
    matchesMark cfg d e = true ↔
      (100 - cfg.tolPct) * e ≤ 100 * (d.toNat - cfg.compUs) ∧ 100 * (d.toNat - cfg.compUs) ≤ (100 + cfg.tolPct) * e := by
  rw [matchesMark, inWindow_iff, compMark_toNat]

theorem matchesSpace_iff (cfg : Config) (d : U32) (e : Nat) :
    matchesSpace cfg d e = true ↔
      (100 - cfg.tolPct) * e ≤ 100 * min (d.toNat + cfg.compUs) (2 ^ 32 - 1) ∧
        100 * min (d.toNat + cfg.compUs) (2 ^ 32 - 1) ≤ (100 + cfg.tolPct) * e := by
  rw [matchesSpace, inWindow_iff, compSpace_toNat]

/-- Settles O13: the symbol rows are their matches by definition; each match is `inWindow_eq_int` of the compensated
value. -/
theorem symbolRowsMatchTheirReference : Obligations.SymbolRowsMatchTheirReference := by
  intro s d
  refine ⟨rfl, rfl, rfl, rfl, rfl, rfl, fun e => ?_⟩
  intro inside
  have hmark : max 0 ((d.toNat : Int) - s.cfg.compUs) = (compMark s.cfg d).toNat := by
    rw [compMark_toNat]
    omega
  have hspace : min ((d.toNat : Int) + s.cfg.compUs) (2 ^ 32 - 1) = (compSpace s.cfg d).toNat := by
    rw [compSpace_toNat]
    omega
  rw [exec_matchesMark, exec_matchesSpace, hmark, hspace, matchesMark, matchesSpace, inWindow_eq_int, inWindow_eq_int]
  exact ⟨rfl, rfl⟩

/-- The window of a mark, rounded inwards: with a positive lower bound a mark below `COMP_US`, compared as 0, is
outside. -/
theorem matchesMark_eq_interval {cfg : Config} {e : Nat} (htol : cfg.tolPct < 100) (he : 0 < e) (d : U32) :
    matchesMark cfg d e =
      decide ((e * (100 - cfg.tolPct) + 99) / 100 + cfg.compUs ≤ d.toNat ∧
        d.toNat ≤ e * (100 + cfg.tolPct) / 100 + cfg.compUs) := by
  rw [Bool.eq_iff_iff, matchesMark_iff, decide_eq_true_iff, Nat.mul_comm _ e, Nat.mul_comm _ e]
  have hpos : 0 < e * (100 - cfg.tolPct) := Nat.mul_pos he (Nat.sub_pos_of_lt htol)
  omega

/-- The window of a space, rounded inwards: below the word's end the saturation does not show. -/
theorem matchesSpace_eq_interval {cfg : Config} {e : Nat} (hfit : e * (100 + cfg.tolPct) / 100 + cfg.compUs < 2 ^ 32)
    (d : U32) :
    matchesSpace cfg d e =
      decide ((e * (100 - cfg.tolPct) + 99) / 100 - cfg.compUs ≤ d.toNat ∧
        d.toNat + cfg.compUs ≤ e * (100 + cfg.tolPct) / 100) := by
  rw [Bool.eq_iff_iff, matchesSpace_iff, decide_eq_true_iff, Nat.mul_comm _ e, Nat.mul_comm _ e]
  have hd := d.isLt
  omega

/-- Settles O14: the windows of the two matches, rounded inwards. -/
theorem matchesAreIntervals : Obligations.MatchesAreIntervals := by
  intro s d e htol he lo hi hfit
  rw [exec_matchesMark, exec_matchesSpace, matchesMark_eq_interval htol he, matchesSpace_eq_interval hfit]
  exact ⟨rfl, rfl⟩

section
variable {cfg : Config} (htol : cfg.tolPct = 25) (hcomp : cfg.compUs = 100)
include htol hcomp

/-- R81's table of measured windows. -/
theorem symbolWindows_default (d : U32) :
    matchesMark cfg d 9000 = decide (6850 ≤ d.toNat ∧ d.toNat ≤ 11350) ∧
    matchesSpace cfg d 4500 = decide (3275 ≤ d.toNat ∧ d.toNat ≤ 5525) ∧
    matchesSpace cfg d 2250 = decide (1588 ≤ d.toNat ∧ d.toNat ≤ 2712) ∧
    matchesMark cfg d 560 = decide (520 ≤ d.toNat ∧ d.toNat ≤ 800) ∧
    matchesSpace cfg d 1690 = decide (1168 ≤ d.toNat ∧ d.toNat ≤ 2012) ∧
    matchesSpace cfg d 560 = decide (320 ≤ d.toNat ∧ d.toNat ≤ 600) := by
  have hmark {e : Nat} (he : 0 < e) :
      matchesMark cfg d e = decide ((e * 75 + 99) / 100 + 100 ≤ d.toNat ∧ d.toNat ≤ e * 125 / 100 + 100) := by
    rw [matchesMark_eq_interval (by omega) he, htol, hcomp]
  have hspace {e : Nat} (he : e < 2 ^ 31) :
      matchesSpace cfg d e = decide ((e * 75 + 99) / 100 - 100 ≤ d.toNat ∧ d.toNat + 100 ≤ e * 125 / 100) := by
    rw [matchesSpace_eq_interval (by rw [htol, hcomp]; omega), htol, hcomp]
  rw [hmark (by decide), hmark (by decide), hspace (by decide), hspace (by decide), hspace (by decide),
    hspace (by decide)]
  refine ⟨?_, ?_, ?_, ?_, ?_, ?_⟩ <;> exact decide_eq_decide.2 (by omega)

end

/-- Settles O12: each symbol row is its match, on the window of the spec's table. -/
theorem symbolWindowsAtDefaults : Obligations.SymbolWindowsAtDefaults := by
  intro s d htol hcomp
  obtain ⟨hhm, hhs, hrs, hbm, hone, hzero⟩ := symbolWindows_default htol hcomp d
  rw [exec_hdrMark, exec_hdrSpace, exec_rptSpace, exec_bitMark, exec_oneSpace, exec_zeroSpace, hhm, hhs, hrs, hbm, hone,
    hzero]
  exact ⟨rfl, rfl, rfl, rfl, rfl, rfl⟩

/-- Settles O17: the integer comparisons of `inWindow_iff`, divided by 100. -/
theorem windowBoundsAreExact : Obligations.WindowBoundsAreExact := by
  intro s c e htol
  refine ⟨inWindow s.cfg c e, exec_inWindow c e s, ?_⟩
  have hlo : (100 - s.cfg.tolPct) * e ≤ 100 * c ↔ (e : ℚ) * (100 - s.cfg.tolPct) / 100 ≤ c := by
    rw [div_le_iff₀ (by norm_num), ← Nat.cast_le (α := ℚ)]
    push_cast [htol]
    rw [mul_comm (e : ℚ), mul_comm (c : ℚ)]
  have hhi : 100 * c ≤ (100 + s.cfg.tolPct) * e ↔ (c : ℚ) ≤ (e : ℚ) * (100 + s.cfg.tolPct) / 100 := by
    rw [le_div_iff₀ (by norm_num), ← Nat.cast_le (α := ℚ)]
    push_cast
    rw [mul_comm (e : ℚ), mul_comm (c : ℚ)]
  rw [inWindow_iff, hlo, hhi]

/-! ### The bits of a data frame (R83, R155, R156) -/

/-- Every bit that was read had its mark and a space of one of the two lengths. -/
theorem bitSymbols_of_readBits {cfg : Config} {n : Nat} {es : List U32} (h : (readBits cfg n es).isSome = true) {k : Nat}
    (hk : k < n) :
    matchesMark cfg (entryAt es (2 * k)) bitMarkUs = true ∧
      (matchesSpace cfg (entryAt es (2 * k + 1)) oneSpaceUs = true ∨
        matchesSpace cfg (entryAt es (2 * k + 1)) zeroSpaceUs = true) := by
  induction n generalizing es k with
  | zero => exact absurd hk (Nat.not_lt_zero k)
  | succ n ih =>
    match es with
    | [] => cases h
    | [_] => cases h
    | m :: sp :: rest =>
      have hfirst : matchesMark cfg m bitMarkUs = true ∧
          (matchesSpace cfg sp oneSpaceUs = true ∨ matchesSpace cfg sp zeroSpaceUs = true) ∧
          (readBits cfg n rest).isSome = true := by
        rw [readBits] at h
        split_ifs at h <;> simp_all
      obtain ⟨hmark, hspace, hrest⟩ := hfirst
      cases k with
      | zero => exact ⟨hmark, hspace⟩
      | succ k => exact ih hrest (Nat.lt_of_succ_lt_succ hk)

/-- Reading `n` bits examines the first `2n` entries. -/
theorem readBits_append {cfg : Config} {n : Nat} {es : List U32} (hlen : 2 * n ≤ es.length) (tail : List U32) :
    readBits cfg n (es ++ tail) = readBits cfg n es := by
  induction n generalizing es with
  | zero => rfl
  | succ n ih =>
    match es with
    | [] => simp at hlen
    | [_] => simp at hlen; omega
    | m :: sp :: rest =>
      have hrest : readBits cfg n (rest ++ tail) = readBits cfg n rest := ih (by simpa [Nat.mul_add] using hlen)
      simp only [List.cons_append, readBits, hrest]

theorem not_isRepeatFrame_of_length {cfg : Config} {es : List U32} (h : es.length ≠ repeatLen) :
    isRepeatFrame cfg es = false := by
  simp [isRepeatFrame, h]

/-- What is no repeat frame and does not decode as a data frame is `Unknown`, candidate or not. -/
theorem decodeNec_of_no_frame {cfg : Config} {es : List U32} (hlen : es.length ≠ repeatLen)
    (hdata : decodeDataFrame cfg es = none) (last : Option Command) : decodeNec cfg es last = none := by
  rw [decodeNec_eq, not_isRepeatFrame_of_length hlen, hdata]
  simp

/-- Settles O20: a data frame whose bits were all read has every mark and space (`bitSymbols_of_readBits`). -/
theorem oneBadBitAborts : Obligations.OneBadBitAborts := by
  intro s es last k hk hlen hbad
  have hdata : decodeDataFrame s.cfg es = none := by
    by_cases hc : DataCandidate s.cfg es
    case neg => exact decodeDataFrame_of_not_candidate hc
    case pos =>
      have hnone : readBits s.cfg nBits (es.drop 2) = none := by
        by_contra hsome
        obtain ⟨hmark, hspace⟩ := bitSymbols_of_readBits (Option.isSome_iff_ne_none.2 hsome) hk
        rw [entryAt_drop] at hmark hspace
        rcases hbad with hbad | ⟨hone, hzero⟩
        · exact Bool.false_ne_true (hbad.symm.trans hmark)
        · rw [show 2 + (2 * k + 1) = 3 + 2 * k by omega] at hspace
          exact hspace.elim (fun h => Bool.false_ne_true (hone.symm.trans h))
            (fun h => Bool.false_ne_true (hzero.symm.trans h))
      rw [decodeDataFrame, dataFrameBits_of_candidate hc, hnone]
  rw [exec_necDecode, exec_dataFrame, decodeNec_of_no_frame hlen.symm hdata, hdata]
  exact ⟨rfl, rfl⟩

/-- Settles O22: header and length tests see entries 0 and 1 and that there are 66 entries, the bits the 64 after the
header. -/
theorem entriesFrom66AreIgnored : Obligations.EntriesFrom66AreIgnored := by
  intro s es tail last hlen
  have hentry {k : Nat} (hk : k < 66) : entryAt (es ++ tail) k = entryAt es k := by
    rw [entryAt, entryAt, List.getD_append _ _ _ _ (by omega)]
  have hlong : 66 ≤ (es ++ tail).length := by
    rw [List.length_append]
    omega
  have hbits : readBits s.cfg nBits ((es ++ tail).drop 2) = readBits s.cfg nBits (es.drop 2) := by
    rw [List.drop_append_of_le_length (by omega)]
    refine readBits_append ?_ tail
    simp only [nBits, List.length_drop]
    omega
  have hdata : decodeDataFrame s.cfg (es ++ tail) = decodeDataFrame s.cfg es := by
    simp only [decodeDataFrame, dataFrameBits, hentry (k := 0) (by decide), hentry (k := 1) (by decide), hbits,
      minDataLen, hlen, hlong]
  have hcandidate : isRepeatCandidate s.cfg (es ++ tail) = isRepeatCandidate s.cfg es := by
    simp only [isRepeatCandidate, hentry (k := 0) (by decide), hentry (k := 1) (by decide), minLen,
      (show 2 ≤ 66 by decide).trans hlen, (show 2 ≤ 66 by decide).trans hlong]
  have hframe {l : List U32} (hl : 66 ≤ l.length) : isRepeatFrame s.cfg l = false :=
    not_isRepeatFrame_of_length (by rw [repeatLen]; omega)
  rw [exec_necDecode, exec_necDecode, exec_dataFrame, exec_dataFrame, decodeNec_eq, decodeNec_eq, hcandidate, hdata,
    hframe hlen, hframe hlong]
  exact ⟨rfl, rfl⟩

/-! ### The payload (R157, R158) -/

/-- Steps 7 and 8 in one: both complements hold and the table recognizes the third byte, or `Unknown`. -/
theorem decodePayload_eq (cfg : Config) (v : BitVec 32) :
    decodePayload cfg v =
      if payB0 v = ~~~payB1 v ∧ payB2 v = ~~~payB3 v ∧ payB2 v ∈ cfg.cmdTable then some (payB2 v) else none := by
  rw [decodePayload, cmdLookup, ← ite_and]
  refine if_congr ?_ rfl rfl
  simp only [payloadValid, Bool.and_eq_true, decide_eq_true_eq, List.contains_iff_mem, and_assoc]
  rfl

/-- Settles O21: the entries are a data candidate whose bits are those of `v`. -/
theorem dataFrameYieldsItsPayload : Obligations.DataFrameYieldsItsPayload := by
  intro s es last v hlen hmark hrpt hspace hmarks hspaces hv b r
  have hbits : ∀ k, k < 32 → StandsFor s.cfg (v.getLsbD k) (entryAt es (2 + 2 * k)) (entryAt es (3 + 2 * k)) := by
    intro k hk
    refine ⟨hmarks k hk, ?_⟩
    rw [hv k hk]
    cases hone : matchesSpace s.cfg (es.getD (3 + 2 * k) 0) 1690 with
    | true => exact .inl ⟨rfl, hone⟩
    | false => exact .inr ⟨rfl, hone, (hspaces k hk).resolve_left (Bool.eq_false_iff.1 hone)⟩
  have hdata : decodeDataFrame s.cfg es = r := by
    rw [decodeDataFrame_of_standsFor ⟨hlen, hmark, hrpt, hspace⟩ hbits, decodePayload_eq]
    rfl
  rw [exec_dataFrame, exec_necDecode, decodeNec_of_not_isRepeatCandidate (isRepeatCandidate_of_not_rptSpace hrpt), hdata]
  exact ⟨rfl, rfl⟩

theorem decodePayload_payloadOfBytes (cfg : Config) (b0 b1 b2 b3 : Byte) :
    decodePayload cfg (payloadOfBytes b0 b1 b2 b3) =
      if b0 = ~~~b1 ∧ b2 = ~~~b3 ∧ b2 ∈ cfg.cmdTable then some b2 else none := by
  rw [decodePayload_eq, payB0_payloadOfBytes, payB1_payloadOfBytes, payB2_payloadOfBytes, payB3_payloadOfBytes]

theorem exec_necPayload (v : BitVec 32) (s : State) :
    exec (.necPayload v) s = .next { s with result := .command (decodePayload s.cfg v) } := rfl

/-- Settles O26: the payload's bytes are read back from it. -/
theorem payloadYieldsItsCommandByte : Obligations.PayloadYieldsItsCommandByte := by
  intro s b0 b1 b2 b3 r
  rw [exec_necPayload, ← payloadOfBytes, decodePayload_payloadOfBytes]

/-! ### The `CMD` rows (R92, R93) -/

/-- A payload whose command byte has its complement: what is left to test is the address and the table. -/
theorem lookUpPayload_of_complement {b2 b3 : Byte} (h : b2 = ~~~b3) (b0 b1 : Byte) (s : State) :
    lookUpPayload b0 b1 b2 b3 s =
      .next { s with result := .command (if b0 = ~~~b1 ∧ b2 ∈ s.cfg.cmdTable then some b2 else none) } := by
  rw [lookUpPayload, decodePayload_payloadOfBytes]
  simp only [h, true_and]
  rfl

/-- Settles O27: each row is the look-up of its byte, which stands with its complement. -/
theorem commandRowsLookUpTheirByte : Obligations.CommandRowsLookUpTheirByte := by
  intro s b0 b1 out
  have hrow {c c' : Byte} (h : c = ~~~c') : lookUpPayload b0 b1 c c' s = out c := lookUpPayload_of_complement h b0 b1 s
  refine ⟨hrow rfl, hrow rfl, hrow rfl, hrow rfl, hrow rfl, hrow rfl, hrow rfl, hrow rfl, hrow rfl, hrow rfl, hrow rfl,
    hrow rfl, hrow rfl, hrow rfl, hrow rfl, hrow rfl, hrow rfl, fun hl haddress => ?_⟩
  refine (hrow (c := 0x18#8) rfl).trans ?_
  simp only [out, if_pos (And.intro haddress (up_mem_cmdTable hl))]

/-! ### The expansions (R107, R163) -/

/-- Symbols that stand for their bits are read as those bits. -/
theorem readBits_flatMap {cfg : Config} {bm one zero : U32}
    (h : ∀ b, StandsFor cfg b bm (if b then one else zero)) (bits : List Bool) (tail : List U32) :
    readBits cfg bits.length (bits.flatMap (fun b => [bm, if b then one else zero]) ++ tail) = some bits := by
  induction bits with
  | nil => rfl
  | cons b bits ih =>
    show readBits cfg (bits.length + 1) (bm :: (if b then one else zero) :: (bits.flatMap _ ++ tail)) = _
    rw [readBits_succ_of_standsFor (h b), ih, Option.map_some]

/-- The durations of the five symbols of a data frame, each in the windows that make it that symbol. -/
structure DataSymbols (cfg : Config) (hm hs bm one zero : U32) : Prop where
  headerMark : matchesMark cfg hm hdrMarkUs = true
  notRepeat : matchesSpace cfg hs rptSpaceUs = false
  headerSpace : matchesSpace cfg hs hdrSpaceUs = true
  bit : ∀ b, StandsFor cfg b bm (if b then one else zero)

/-- An expansion by such symbols is a data frame, and its payload is what was expanded. -/
theorem decodeDataFrame_expandFrame {cfg : Config} {hm hs bm one zero : U32} (h : DataSymbols cfg hm hs bm one zero)
    (v : BitVec 32) : decodeDataFrame cfg (expandFrame hm hs bm one zero (payloadBits v)) = decodePayload cfg v := by
  have hlen : (payloadBits v).length = nBits := by simp [payloadBits, nBits]
  have hc : DataCandidate cfg (expandFrame hm hs bm one zero (payloadBits v)) :=
    ⟨by simp [expandFrame, minDataLen, hlen, nBits], h.headerMark, h.notRepeat, h.headerSpace⟩
  have hbits : readBits cfg nBits ((expandFrame hm hs bm one zero (payloadBits v)).drop 2) = some (payloadBits v) :=
    hlen ▸ readBits_flatMap h.bit (payloadBits v) [bm]
  rw [decodeDataFrame_of_bits ((dataFrameBits_of_candidate hc).trans hbits), payloadOfBits_payloadBits]

section
variable {cfg : Config} (htol : cfg.tolPct = 25) (hcomp : cfg.compUs = 100)
include htol hcomp

/-- At the default parameters the measured windows make the symbols. -/
theorem dataSymbols_default {hm hs bm one zero : U32} (hhm : 6850 ≤ hm.toNat ∧ hm.toNat ≤ 11350)
    (hhs : 3275 ≤ hs.toNat ∧ hs.toNat ≤ 5525) (hbm : 520 ≤ bm.toNat ∧ bm.toNat ≤ 800)
    (hone : 1168 ≤ one.toNat ∧ one.toNat ≤ 2012) (hzero : 320 ≤ zero.toNat ∧ zero.toNat ≤ 600) :
    DataSymbols cfg hm hs bm one zero := by
  obtain ⟨hmark, -⟩ := symbolWindows_default htol hcomp hm
  obtain ⟨-, hspace, hrpt, -⟩ := symbolWindows_default htol hcomp hs
  obtain ⟨-, -, -, hbit, -⟩ := symbolWindows_default htol hcomp bm
  obtain ⟨-, -, -, -, hone1, -⟩ := symbolWindows_default htol hcomp one
  obtain ⟨-, -, -, -, hzero1, hzero0⟩ := symbolWindows_default htol hcomp zero
  refine ⟨hmark.trans (decide_eq_true hhm), hrpt.trans (decide_eq_false (by omega)),
    hspace.trans (decide_eq_true hhs), ?_⟩
  rintro (_ | _)
  · exact ⟨hbit.trans (decide_eq_true hbm),
      .inr ⟨rfl, hzero1.trans (decide_eq_false (by omega)), hzero0.trans (decide_eq_true hzero)⟩⟩
  · exact ⟨hbit.trans (decide_eq_true hbm), .inl ⟨rfl, hone1.trans (decide_eq_true hone)⟩⟩

theorem dataSymbols_nominal : DataSymbols cfg 9000#32 4500#32 560#32 1690#32 560#32 :=
  dataSymbols_default htol hcomp (by decide) (by decide) (by decide) (by decide) (by decide)

theorem dataSymbols_predistorted : DataSymbols cfg 9100#32 4400#32 660#32 1590#32 460#32 :=
  dataSymbols_default htol hcomp (by decide) (by decide) (by decide) (by decide) (by decide)

end

/-- `NEC(a, c)` passes the checksum: what is left is the table. -/
theorem decodePayload_necWord (cfg : Config) (a c : Byte) :
    decodePayload cfg (necWord a c) = if c ∈ cfg.cmdTable then some c else none := by
  rw [necWord, decodePayload_payloadOfBytes]
  simp

/-- Both rows that read an expansion answer its payload's command. -/
theorem exec_expandFrame {s : State} {hm hs bm one zero : U32} (h : DataSymbols s.cfg hm hs bm one zero) (a c : Byte)
    (last : Option Command) :
    let es := expandFrame hm hs bm one zero (payloadBits (necWord a c))
    let t := { s with result := .command (if c ∈ s.cfg.cmdTable then some c else none) }
    exec (.dataFrame es) s = .next t ∧ exec (.necDecode es last) s = .next t := by
  intro es t
  have hdata : decodeDataFrame s.cfg es = if c ∈ s.cfg.cmdTable then some c else none :=
    (decodeDataFrame_expandFrame h _).trans (decodePayload_necWord s.cfg a c)
  have hentry : entryAt es 1 = hs := rfl
  have hnec : decodeNec s.cfg es last = decodeDataFrame s.cfg es :=
    decodeNec_of_not_isRepeatCandidate (isRepeatCandidate_of_not_rptSpace (hentry ▸ h.notRepeat)) last
  rw [exec_dataFrame, exec_necDecode, hnec, hdata]
  exact ⟨rfl, rfl⟩

/-- Settles O25: both expansions are made of data symbols; `Up` is in every legal table. -/
theorem expansionsRoundTrip : Obligations.ExpansionsRoundTrip := by
  intro s a c last htol hcomp r
  obtain ⟨hnominal, hnominal'⟩ := exec_expandFrame (dataSymbols_nominal htol hcomp) a c last
  obtain ⟨hpredistorted, hpredistorted'⟩ := exec_expandFrame (dataSymbols_predistorted htol hcomp) a c last
  refine ⟨hnominal, hpredistorted, hnominal', hpredistorted', ?_⟩
  rintro hl rfl rfl
  exact ⟨if_pos (up_mem_cmdTable hl), by decide⟩

end Sys2Proof.Machine

/-! The host operations, the decoder's arms and the scheduler's update as rows of their own: effects and frames. -/

namespace Sys2Proof.Machine

open Host (Outcome)

/-! ### `add`, `set_target`, `on_receive` (R128, R171, R172, U6) -/

section
variable {p : PinId} {s : State} (hroom : s.ch.length < s.chCapacity)
include hroom

theorem addOp_of_irPin (h : p = s.cfg.irPin) : addOp p s = .refused .pinIsIrPin := by
  rw [addOp, if_neg (Nat.not_le_of_lt hroom), if_pos h]

theorem addOp_of_pin_in_use (hir : p ≠ s.cfg.irPin) (h : ∃ c ∈ s.ch, c.pin = p) : addOp p s = .refused .pinInUse := by
  have hany : s.ch.any (fun c => c.pin == p) = true := by simpa using h
  rw [addOp, if_neg (Nat.not_le_of_lt hroom), if_neg hir, if_pos hany]

theorem addOp_of_new_pin (hir : p ≠ s.cfg.irPin) (h : ∀ c ∈ s.ch, c.pin ≠ p) :
    addOp p s = .next (registerChannel p s) := by
  have hany : ¬s.ch.any (fun c => c.pin == p) = true := by simpa using h
  rw [addOp, if_neg (Nat.not_le_of_lt hroom), if_neg hir, if_neg hany]

end

/-- Settles O29: the tests of `add` pass, and `registerChannel` emits its two events one after the other. -/
theorem addAppendsAChannel : Obligations.AddAppendsAChannel := by
  intro s p hroom hir hnew
  rw [exec_add, addOp_of_new_pin hroom hir hnew, List.append_cons s.trace]
  rfl

/-- Settles O31: the tests of `add` in their order, the input pin before the pins in use. -/
theorem addRefusesSharedPins : Obligations.AddRefusesSharedPins :=
  fun _ _ hroom => ⟨addOp_of_irPin hroom, addOp_of_pin_in_use hroom⟩

/-- Settles O32: the stored pulse time is `pulseOf`, whose integer division is the floor of the rational one. -/
theorem setTargetWritesOnePulseTime : Obligations.SetTargetWritesOnePulseTime := by
  intro s k v c hc
  refine ⟨pulseOf v, ?_, by rw [exec_setTarget, setTargetOp_of_getElem? v hc]⟩
  have hfloor : ⌊((9000 + 50 * v : Int) : ℚ) / 9⌋ = (9000 + 50 * v) / 9 := by
    exact_mod_cast Rat.floor_intCast_div_natCast (9000 + 50 * v) 9
  rw [pulseOf_toNat, hfloor]

theorem exec_onReceive (h : Handler) (s : State) : exec (.onReceive h) s = .next (registerHandler h s) := rfl

/-- Settles O35: what the first registration wrote, the second writes over. -/
theorem onReceiveReplacesTheHandler : Obligations.OnReceiveReplacesTheHandler := by
  intro s h g
  refine ⟨rfl, fun t u ht hu => ?_⟩
  rw [exec_onReceive] at ht hu ⊢
  rw [← hu, ← Outcome.next.inj ht]
  rfl

/-! ### The arms of `Receiving` (R122 to R126) -/

section
variable (now : U32) (level : Bool) (s : State)

theorem exec_decRxAppend :
    exec (.decRxAppend now level) s =
      .next (if s.rxState = .receiving ∧ level ≠ s.prevLevel ∧ s.bufIdx < s.cfg.bufCapacity then appendEdge now s
        else s) := rfl

theorem exec_decRxOverflow :
    exec (.decRxOverflow level) s =
      .next (if s.rxState = .receiving ∧ level ≠ s.prevLevel ∧ s.bufIdx = s.cfg.bufCapacity then overflowDone s
        else s) := rfl

theorem exec_decRxFrameEnd :
    exec (.decRxFrameEnd now level) s =
      .next (if s.rxState = .receiving ∧ level = s.prevLevel ∧ level = true ∧ frameGapUs < (s.duration now).toNat then
        frameEnd s else s) := by
  simp only [← gapExceeded_iff]
  rfl

theorem exec_decRxNoiseAbort :
    exec (.decRxNoiseAbort now level) s =
      .next (if s.rxState = .receiving ∧ level = s.prevLevel ∧ level = false ∧
        markAbortUs s.cfg < (s.duration now).toNat then noiseAbort s else s) := by
  simp only [← markExceeded_iff]
  rfl

theorem exec_receivingDispatch : exec (.receivingDispatch now level) s = .next (receivingArm now level s) := rfl

end

/-- Settles O37: each row is its effect under its guard (`exec_decRx…`), so each clause is one branch. -/
theorem receivingArmsUnderTheirGuards : Obligations.ReceivingArmsUnderTheirGuards := by
  intro s now level d rx
  rw [exec_decRxAppend, exec_decRxOverflow, exec_decRxFrameEnd, exec_decRxNoiseAbort]
  refine ⟨fun h1 h2 h3 => ?_, fun h => ?_, fun h1 h2 h3 => ?_, fun h => ?_, fun h1 h2 h3 h4 => ?_, fun h => ?_,
    fun h1 h2 h3 h4 => ?_, fun h => ?_⟩
  · rw [if_pos ⟨h1, h2, h3⟩]
    rfl
  · rw [if_neg h]
  · rw [if_pos ⟨h1, h2, h3⟩]
    rfl
  · rw [if_neg h]
  · rw [if_pos ⟨h1, h2, h3, h4⟩]
    rfl
  · exact congrArg _ (if_neg h)
  · rw [if_pos ⟨h1, h2, h3, h4⟩]
    rfl
  · exact congrArg _ (if_neg h)

/-- Settles O38: the two laws of a write, and that it keeps the canonical form. -/
theorem appendWritesOneSlot : Obligations.AppendWritesOneSlot := by
  intro s now level hr hedge hroom
  refine ⟨appendEdge now s, by rw [exec_decRxAppend, if_pos ⟨hr, hedge, hroom⟩], ?_, fun k hk => ?_, fun hwf => ?_⟩
  · exact s.buf.read_write_same s.bufIdx (now - s.edgeRef)
  · exact s.buf.read_write_other s.bufIdx k _ hk
  · exact Memory.write_wf _ _ _ hwf

/-- What the arms of `Receiving` write: the buffer, its index, the edge reference, the state and the trace. -/
theorem receivingArm_frame (now : U32) (level : Bool) (s : State) :
    receivingArm now level s =
      { s with
        buf := (receivingArm now level s).buf
        bufIdx := (receivingArm now level s).bufIdx
        edgeRef := (receivingArm now level s).edgeRef
        rxState := (receivingArm now level s).rxState
        trace := (receivingArm now level s).trace } := by
  rcases receivingArm_cases now level s with ⟨-, -, e⟩ | ⟨-, -, e⟩ | ⟨-, -, -, e⟩ | ⟨-, -, -, e⟩ | ⟨-, -, e⟩ <;>
    rw [e] <;> rfl

/-- Settles O39: the five outcomes of the arm, each under the guard of the row it is compared with. -/
theorem receivingDispatchesToOneArm : Obligations.ReceivingDispatchesToOneArm := by
  intro s now level hr hidx
  constructor
  · rw [exec_receivingDispatch, exec_decRxAppend, exec_decRxOverflow, exec_decRxFrameEnd, exec_decRxNoiseAbort]
    rcases receivingArm_cases now level s with
      ⟨hedge, hroom, e⟩ | ⟨hedge, hfull, e⟩ | ⟨hheld, hhigh, hgap, e⟩ | ⟨hheld, hlow, hmark, e⟩ | ⟨hheld, hwithin, e⟩
    · rw [e, if_pos hedge, if_pos hroom, if_pos ⟨hr, hedge, hroom⟩]
    · rw [e, if_pos hedge, if_neg (Nat.not_lt_of_le hfull), if_pos ⟨hr, hedge, Nat.le_antisymm hidx hfull⟩]
    · rw [e, if_neg (not_not_intro hheld), if_pos hhigh, if_pos ⟨hr, hheld, hhigh, hgap⟩]
    · rw [e, if_neg (not_not_intro hheld), if_neg (by simp [hlow]), if_pos ⟨hr, hheld, hlow, hmark⟩]
    · rw [e, if_neg (not_not_intro hheld)]
      cases level
      · rw [if_neg Bool.false_ne_true, if_neg fun ⟨_, _, _, habove⟩ => Nat.not_lt_of_le hwithin habove]
      · rw [if_pos rfl, if_neg fun ⟨_, _, _, habove⟩ => Nat.not_lt_of_le hwithin habove]
  · exact ⟨_, exec_receivingDispatch now level s, by rw [receivingArm_frame], by rw [receivingArm_frame],
      by rw [receivingArm_frame]⟩

/-! ### The `Done` arm and the handler's window (R127, R129) -/

/-- The value that DECODE returns is that of Decode. -/
theorem decodeNec_of_exec {s : State} {es : List U32} {last c : Option Command}
    (h : exec (.necDecode es last) s = .next { s with result := .command c }) : decodeNec s.cfg es last = c := by
  rw [exec_necDecode] at h
  exact Result.command.inj (congrArg State.result (Outcome.next.inj h))

/-- Settles O40: the arm's three branches; a handler's window is the row DEC_HANDLER_WINDOW on the announced state. -/
theorem doneArmAnnouncesAKnownCommand : Obligations.DoneArmAnnouncesAKnownCommand := by
  intro s
  refine ⟨fun hr => if_neg hr, fun hr => ⟨fun hnone => ?unknown, fun c hc => ?known⟩⟩
  case unknown => rw [exec_decDone hr, doneArm_unknown (decodeNec_of_exec hnone), leaveDone]
  case known =>
    intro told
    refine ⟨fun hs => ?unhandled, fun hs t => ?handled⟩
    case unhandled =>
      rw [exec_decDone hr, doneArm_unhandled (decodeNec_of_exec hc) hs]
      rfl
    case handled =>
      have hwindow : exec (.decHandlerWindow c) told = handlerWindow c (announceCommand c s) :=
        exec_decHandlerWindow (s := told) hr hs
      rw [exec_decDone hr, doneArm_handled (decodeNec_of_exec hc) hs, andThen_eq_next, hwindow]
      refine exists_congr fun u => and_congr_right fun _ => ?_
      rw [Outcome.next.injEq, eq_comm, leaveDone]

/-- A call that R129 allows, as a call of the handler and as the instruction it is. -/
theorem exec_hostCall (a : Int × Int ⊕ PinId) (s : State) :
    exec (Sum.elim (fun a => .setTarget a.1 a.2) .add a) s =
      runCall (Sum.elim (fun a => .setTarget a.1 a.2) .add a) s := by
  cases a <;> rfl

theorem andThen_next_right (o : Answer) : andThen o .next = o := by cases o <;> rfl

/-- Calls in a row are the instructions in a row, from whatever came before. -/
theorem andThen_runCalls_eq_foldl (calls : List (Int × Int ⊕ PinId)) (o : Answer) :
    andThen o (runCalls (calls.map (Sum.elim (fun a => .setTarget a.1 a.2) .add))) =
      calls.foldl (fun o a => andThen o (exec (Sum.elim (fun a => .setTarget a.1 a.2) .add a))) o := by
  induction calls generalizing o with
  | nil => exact andThen_next_right o
  | cons a calls ih =>
    rw [List.foldl_cons, ← ih, andThen_assoc]
    simp only [exec_hostCall]
    rfl

theorem runCalls_forbidden (call : ForbiddenCall) (ops : List HandlerOp) (s : State) :
    runCalls (.forbidden call :: ops) s = .refused (.handlerReentry call) := rfl

/-- Targets alone: the calls are answered, and write pulse times and the result. -/
theorem runCalls_targets (targets : List (Int × Int)) (s : State) :
    ∃ t, runCalls (targets.map fun a => .setTarget a.1 a.2) s = .next t ∧ t = { s with ch := t.ch, result := t.result } ∧
      t.ch.map (fun c => (c.pin, c.level, c.lastTransition)) =
        s.ch.map (fun c => (c.pin, c.level, c.lastTransition)) := by
  induction targets generalizing s with
  | nil => exact ⟨s, rfl, rfl, rfl⟩
  | cons a targets ih =>
    obtain ⟨t, ht, hframe, hrecords⟩ := ih (setTargetOp a.1 a.2 s)
    refine ⟨t, ht, ?_, hrecords.trans (setTargetOp_records a.1 a.2 s)⟩
    rw [setTargetOp_eq] at hframe
    exact hframe

/-- Settles O41: the window is `runCalls` of the handler's calls, which are host operations up to a forbidden one. -/
theorem handlerWindowRunsHostOperations : Obligations.HandlerWindowRunsHostOperations := by
  intro s c
  refine ⟨fun hout => if_neg hout, fun hr hs => ?_⟩
  have hwindow : exec (.decHandlerWindow c) s = runCalls (handlerCalls s.handler c) s := exec_decHandlerWindow hr hs
  rw [hwindow]
  refine ⟨fun calls hcalls => ?hostCalls, fun targets hcalls => ?targets, fun calls call ops hcalls => ?forbidden⟩ <;>
    rw [hcalls]
  case hostCalls => exact andThen_runCalls_eq_foldl calls (.next s)
  case targets => exact runCalls_targets targets s
  case forbidden =>
    rw [runCalls_append, ← andThen_runCalls_eq_foldl, funext (runCalls_forbidden call ops)]
    rfl

/-! ### The decoder update (R120) -/

/-- The arm that an update runs in each state. -/
def updateArm (now : U32) (level : Bool) : RxState → Instr
  | .idle => .decIdleStart now level
  | .receiving => .receivingDispatch now level
  | .done => .decDone

theorem decoderUpdate_eq_arm (now : U32) (level : Bool) (s : State) :
    decoderUpdate now level s = andThen (exec (updateArm now level s.rxState) s) (fun u => .next (u.sample level)) := by
  cases hr : s.rxState with
  | idle =>
    rw [decoderUpdate_idle hr, updateArm, exec_decIdleStart, andThen_next]
    simp only [idleArm, hr, true_and]
  | receiving =>
    rw [decoderUpdate_receiving hr]
    rfl
  | done => rw [decoderUpdate_done hr, updateArm, exec_decDone hr]

theorem decoderUpdate_completes {now : U32} {level : Bool} {s : State}
    (h : s.rxState = .done → s.handlerSet = false) : ∃ t, decoderUpdate now level s = .next t := by
  cases hr : s.rxState with
  | idle => exact ⟨_, decoderUpdate_idle hr⟩
  | receiving => exact ⟨_, decoderUpdate_receiving hr⟩
  | done =>
    rw [decoderUpdate_done hr]
    cases hc : decodeNec s.cfg s.entries s.lastCmd with
    | none => exact ⟨_, by rw [doneArm_unknown hc, andThen_next]⟩
    | some c => exact ⟨_, by rw [doneArm_unhandled hc (h hr), andThen_next]⟩

/-- Settles O42: the update is its arm, then the sample; without a handler's window every arm completes. -/
theorem decoderUpdateRunsOneArmThenSamples : Obligations.DecoderUpdateRunsOneArmThenSamples := by
  intro s t now level
  refine ⟨?_, decoderUpdate_completes⟩
  have hupdate : exec (.decoderUpdate now level) s = decoderUpdate now level s := rfl
  rw [hupdate, decoderUpdate_eq_arm, andThen_eq_next]
  refine exists_congr fun u => and_congr ?_ ?_
  · cases s.rxState <;> exact Iff.rfl
  · rw [Outcome.next.injEq, eq_comm, State.sample]

/-! ### The scheduler's turns (R173 to R175) -/

theorem turned_of_fallDue {c : Channel} {now : U32} (h : c.fallDue now = true) : turned now c = c.toggled now false :=
  if_pos ((fallDue_iff c now).1 h)

theorem turned_of_riseDue {c : Channel} {now : U32} (h : c.riseDue now = true) : turned now c = c.toggled now true := by
  obtain ⟨hlow, hdue⟩ := (riseDue_iff c now).1 h
  rw [turned, if_neg (by simp [hlow]), if_pos ⟨hlow, hdue⟩]
  rfl

theorem turned_of_not_due {c : Channel} {now : U32} (hfall : ¬c.fallDue now = true) (hrise : ¬c.riseDue now = true) :
    turned now c = c := by
  rw [fallDue_iff] at hfall
  rw [riseDue_iff] at hrise
  rw [turned, if_neg hfall, if_neg hrise]

/-- A transition is observed, so a state that drives a channel is another state. -/
theorem driveChannel_ne (k : Nat) (c : Channel) (level : Bool) (now : U32) (s : State) :
    driveChannel k c level now s ≠ s := by
  intro h
  have htrace : s.trace ++ [(s.clock, .gpioWrite c.pin level)] = s.trace := congrArg State.trace h
  simp at htrace

theorem driveChannel_getElem? {s : State} {k : Nat} {c : Channel} (h : s.ch[k]? = some c) (level : Bool) (now : U32) :
    (driveChannel k c level now s).ch[k]? = some (c.toggled now level) := by
  rw [driveChannel_ch, List.getElem?_set_self (List.getElem?_eq_some_iff.1 h).1]

theorem fallArm_of_length_le {s : State} {k : Nat} (now : U32) (h : s.ch.length ≤ k) : fallArm k now s = s := by
  simp only [fallArm, List.getElem?_eq_none h]

theorem riseArm_of_length_le {s : State} {k : Nat} (now : U32) (h : s.ch.length ≤ k) : riseArm k now s = s := by
  simp only [riseArm, List.getElem?_eq_none h]

theorem schedulerUpdate_getElem? {s : State} {k : Nat} {c : Channel} (now : U32) (h : s.ch[k]? = some c) :
    (schedulerUpdate now s).ch[k]? = some (turned now c) := by
  rw [schedulerUpdate_ch, List.getElem?_map, h, Option.map_some]

/-- Settles O45: the update is `schedulerUpdate_eq`; a record's turn is the arm whose guard holds, and an arm that acts is
seen by its write. -/
theorem schedulerUpdateTurnsEveryChannel : Obligations.SchedulerUpdateTurnsEveryChannel := by
  intro s now
  refine ⟨schedulerUpdate now s, rfl, ?_, ?_, schedulerUpdate_trace now s, fun k hk => ?_, fun k c hc => ?_⟩
  · rw [schedulerUpdate_eq]
  · rw [schedulerUpdate_ch, List.length_map]
  · rw [exec_pwmFall, exec_pwmRise, fallArm_of_length_le now hk, riseArm_of_length_le now hk]
    exact ⟨rfl, rfl⟩
  · rw [schedulerUpdate_getElem? now hc, exec_pwmFall, exec_pwmRise, fallArm_of_getElem? now hc,
      riseArm_of_getElem? now hc]
    refine ⟨fun u hu hne => ?fall, fun u hu hne => ?rise, fun hfall hrise => ?neither⟩
    case fall =>
      split at hu <;> cases hu
      case isTrue hdue => rw [driveChannel_getElem? hc, turned_of_fallDue hdue]
      case isFalse => exact absurd rfl hne
    case rise =>
      split at hu <;> cases hu
      case isTrue hdue => rw [driveChannel_getElem? hc, turned_of_riseDue hdue]
      case isFalse => exact absurd rfl hne
    case neither =>
      have hnofall : ¬c.fallDue now = true := fun hdue => by
        rw [if_pos hdue] at hfall
        exact driveChannel_ne _ _ _ _ _ (Outcome.next.inj hfall)
      have hnorise : ¬c.riseDue now = true := fun hdue => by
        rw [if_pos hdue] at hrise
        exact driveChannel_ne _ _ _ _ _ (Outcome.next.inj hrise)
      rw [turned_of_not_due hnofall hnorise]

/-! ### Who writes what (R46, R206) -/

/-- The decoder's state, cache and handler are kept. -/
def KeepsDecoder (s t : State) : Prop :=
  t.rxState = s.rxState ∧ t.buf = s.buf ∧ t.bufIdx = s.bufIdx ∧ t.edgeRef = s.edgeRef ∧ t.prevLevel = s.prevLevel ∧
    t.lastCmd = s.lastCmd ∧ t.handlerSet = s.handlerSet ∧ t.handler = s.handler

/-- The channel table, and what an arm of the decoder does not write besides, is kept. -/
def KeepsChannels (s t : State) : Prop :=
  t.ch = s.ch ∧ t.chCapacity = s.chCapacity ∧ t.lastCmd = s.lastCmd ∧ t.handlerSet = s.handlerSet ∧
    t.prevLevel = s.prevLevel ∧ t.result = s.result ∧ t.returns = s.returns

theorem KeepsDecoder.refl (s : State) : KeepsDecoder s s := ⟨rfl, rfl, rfl, rfl, rfl, rfl, rfl, rfl⟩

theorem KeepsChannels.refl (s : State) : KeepsChannels s s := ⟨rfl, rfl, rfl, rfl, rfl, rfl, rfl⟩

theorem keepsDecoder_configureOp {n : Nat} {s t : State} (h : configureOp n s = .next t) : KeepsDecoder s t := by
  rcases configureOp_cases n s with ⟨-, e⟩ | ⟨-, -, e⟩ | ⟨-, -, e⟩ <;> rw [e] at h <;> cases h <;>
    exact KeepsDecoder.refl s

theorem keepsDecoder_addOp {p : PinId} {s t : State} (h : addOp p s = .next t) : KeepsDecoder s t := by
  rw [runCall_frame (op := .add p) h]
  exact KeepsDecoder.refl s

theorem keepsDecoder_setTargetOp (k v : Int) (s : State) : KeepsDecoder s (setTargetOp k v s) := by
  rw [setTargetOp_eq]
  exact KeepsDecoder.refl s

theorem keepsDecoder_fallArm (k : Nat) (now : U32) (s : State) : KeepsDecoder s (fallArm k now s) := by
  unfold fallArm
  split
  · exact KeepsDecoder.refl s
  · split <;> exact KeepsDecoder.refl s

theorem keepsDecoder_riseArm (k : Nat) (now : U32) (s : State) : KeepsDecoder s (riseArm k now s) := by
  unfold riseArm
  split
  · exact KeepsDecoder.refl s
  · split <;> exact KeepsDecoder.refl s

theorem keepsDecoder_schedulerUpdate (now : U32) (s : State) : KeepsDecoder s (schedulerUpdate now s) := by
  rw [schedulerUpdate_eq]
  exact KeepsDecoder.refl s

theorem keepsChannels_receivingArm (now : U32) (level : Bool) (s : State) :
    KeepsChannels s (receivingArm now level s) := by
  rw [receivingArm_frame]
  exact KeepsChannels.refl s

/-- An arm under its guard keeps the channels if its effect does. -/
theorem guarded_keepsChannels {g : Prop} [Decidable g] {s t u : State} (hu : KeepsChannels s u)
    (h : (.next (if g then u else s) : Answer) = .next t) : KeepsChannels s t := by
  rw [← Outcome.next.inj h]
  split
  · exact hu
  · exact KeepsChannels.refl s

/-- Settles O54: the rows of each list, one frame each. -/
theorem stateHasOneOwner : Obligations.StateHasOneOwner := by
  intro s t now level k n p j v
  constructor <;> intro i hi h <;>
    simp only [List.mem_cons, List.not_mem_nil, or_false] at hi
  · show KeepsDecoder s t
    rcases hi with rfl | rfl | rfl | rfl | rfl | rfl
    · exact keepsDecoder_configureOp h
    · exact keepsDecoder_addOp h
    · exact Outcome.next.inj h ▸ keepsDecoder_setTargetOp j v s
    · exact Outcome.next.inj h ▸ keepsDecoder_fallArm k now s
    · exact Outcome.next.inj h ▸ keepsDecoder_riseArm k now s
    · exact Outcome.next.inj h ▸ keepsDecoder_schedulerUpdate now s
  · show KeepsChannels s t
    rcases hi with rfl | rfl | rfl | rfl | rfl | rfl
    · exact guarded_keepsChannels (u := startFrame now s) (KeepsChannels.refl s) h
    · exact guarded_keepsChannels (u := appendEdge now s) (KeepsChannels.refl s) h
    · exact guarded_keepsChannels (u := overflowDone s) (KeepsChannels.refl s) h
    · exact guarded_keepsChannels (u := frameEnd s) (KeepsChannels.refl s) h
    · exact guarded_keepsChannels (u := noiseAbort s) (KeepsChannels.refl s) h
    · exact Outcome.next.inj h ▸ keepsChannels_receivingArm now level s

end Sys2Proof.Machine

/-! Runs of ticks: the two machines side by side, the end of `Receiving`, the length of a channel's phase, and the recording
of a waveform. -/

namespace Sys2Proof.Machine

open Host (Outcome)

/-! ### The two machines side by side (R46, R181) -/

/-- A state with everything but the decoder's part, the configuration and the clock put at one fixed value. -/
def State.decoderPart (s : State) : State :=
  { s with chCapacity := 0, ch := [], handler := [], inbox := [], result := .nothing, returns := [], trace := [] }

theorem decoderPart_schedulerUpdate (now : U32) (s : State) :
    (schedulerUpdate now s).decoderPart = s.decoderPart := by
  rw [schedulerUpdate_eq]
  rfl

theorem decoderPart_idleArm (now : U32) (level : Bool) (s : State) :
    (idleArm now level s).decoderPart = (idleArm now level s.decoderPart).decoderPart := by
  unfold idleArm
  rw [apply_ite State.decoderPart, apply_ite State.decoderPart]
  rfl

theorem decoderPart_receivingArm (now : U32) (level : Bool) (s : State) :
    (receivingArm now level s).decoderPart = (receivingArm now level s.decoderPart).decoderPart := by
  unfold receivingArm
  simp only [apply_ite State.decoderPart]
  rfl

/-- Without a handler the decoder's part after an update is that of the update of the decoder's part alone. -/
theorem decoderPart_decoderUpdate {now : U32} {level : Bool} {s t : State} (hs : s.handlerSet = false)
    (h : decoderUpdate now level s = .next t) :
    ∃ u, decoderUpdate now level s.decoderPart = .next u ∧ t.decoderPart = u.decoderPart := by
  cases hr : s.rxState with
  | idle =>
    rw [decoderUpdate_idle hr] at h
    rw [decoderUpdate_idle (s := s.decoderPart) hr, ← Outcome.next.inj h]
    exact ⟨_, rfl, congrArg (fun u => u.sample level) (decoderPart_idleArm now level s)⟩
  | receiving =>
    rw [decoderUpdate_receiving hr] at h
    rw [decoderUpdate_receiving (s := s.decoderPart) hr, ← Outcome.next.inj h]
    exact ⟨_, rfl, congrArg (fun u => u.sample level) (decoderPart_receivingArm now level s)⟩
  | done =>
    rw [decoderUpdate_done hr] at h
    rw [decoderUpdate_done (s := s.decoderPart) hr]
    cases hc : decodeNec s.cfg s.entries s.lastCmd with
    | none =>
      rw [doneArm_unknown hc] at h
      rw [doneArm_unknown (s := s.decoderPart) hc, ← Outcome.next.inj h]
      exact ⟨_, rfl, rfl⟩
    | some c =>
      rw [doneArm_unhandled hc hs] at h
      rw [doneArm_unhandled (s := s.decoderPart) hc hs, ← Outcome.next.inj h]
      exact ⟨_, rfl, rfl⟩

theorem decoderPart_tickPass {irIn : Bool} {missed : Nat} {s t : State} (hs : s.handlerSet = false)
    (h : tickPass irIn missed s = .next t) :
    ∃ u, decoderUpdate (s.decoderPart.advanceClock (missed + 1)).clock irIn (s.decoderPart.advanceClock (missed + 1)) =
      .next u ∧ t.decoderPart = u.decoderPart := by
  obtain ⟨v, hv, rfl⟩ := tickPass_next h
  rw [decoderPart_schedulerUpdate]
  exact decoderPart_decoderUpdate (s := s.advanceClock (missed + 1)) hs hv

/-- Without a handler a decoder update leaves the channels. -/
theorem decoderUpdate_ch {now : U32} {level : Bool} {s t : State} (hs : s.handlerSet = false)
    (h : decoderUpdate now level s = .next t) : t.ch = s.ch := by
  rcases decoderUpdate_next h with ⟨-, rfl⟩ | ⟨-, rfl⟩ | ⟨-, u, hu, rfl⟩
  · unfold idleArm
    split <;> rfl
  · obtain ⟨hch, -⟩ := keepsChannels_receivingArm now level s
    exact hch
  · rcases doneArm_next hu with ⟨-, rfl⟩ | ⟨c, -, -, rfl⟩ | ⟨c, v, -, hset, -⟩
    · rfl
    · rfl
    · rw [hs] at hset
      cases hset

/-- Without a handler a pass gives every channel its turn at the new clock and does nothing else to the channels. -/
theorem exec_tick_ch {irIn : Bool} {missed : Nat} {s t : State} (hs : s.handlerSet = false)
    (h : exec (.tick irIn missed) s = .next t) :
    t.ch = s.ch.map (turned (s.advanceClock (missed + 1)).clock) ∧ t.handlerSet = false := by
  obtain ⟨u, hu, rfl⟩ := tickPass_next h
  obtain ⟨-, -, -, hset, -⟩ := decoderUpdate_frame hu
  rw [schedulerUpdate_ch, schedulerUpdate_handlerSet, decoderUpdate_ch (s := s.advanceClock (missed + 1)) hs hu]
  exact ⟨rfl, hset.trans hs⟩

/-- Settles O55: the decoder's part of a pass is a function of the decoder's part (`decoderPart_tickPass`), the channels'
of the channels (`exec_tick_ch`). -/
theorem machinesDoNotInterfere : Obligations.MachinesDoNotInterfere := by
  intro s s' t t' irIn missed hs hs' hcfg hclock ht ht'
  constructor
  · rintro ⟨hr, hb, hi, hp, he, hl⟩
    have hpart : s.decoderPart = s'.decoderPart := by
      simp only [State.decoderPart, hr, hb, hi, hp, he, hl, hcfg, hclock, hs, hs']
    obtain ⟨u, hu, htu⟩ := decoderPart_tickPass hs ht
    obtain ⟨u', hu', htu'⟩ := decoderPart_tickPass hs' ht'
    rw [hpart, hu'] at hu
    cases hu
    have hsame : t.decoderPart = t'.decoderPart := htu.trans htu'.symm
    simp only [State.decoderPart, State.mk.injEq] at hsame
    obtain ⟨-, -, hr, hb, hi, hp, he, hl, -⟩ := hsame
    exact ⟨hr, hb, hi, hp, he, hl⟩
  · intro hch
    obtain ⟨hturned, -⟩ := exec_tick_ch hs ht
    obtain ⟨hturned', -⟩ := exec_tick_ch hs' ht'
    rw [hturned, hturned', hch, advanceClock_clock, advanceClock_clock, hcfg, hclock]

/-! ### Runs -/

theorem runTicks_append (a b : List Bool) (s : State) :
    runTicks (a ++ b) s = andThen (runTicks a s) (runTicks b) := by
  induction a generalizing s with
  | nil => rfl
  | cons level a ih =>
    show andThen (exec (.tick level 0) s) (runTicks (a ++ b)) =
      andThen (andThen (exec (.tick level 0) s) (runTicks a)) (runTicks b)
    rw [andThen_assoc, funext ih]

theorem runTicks_cons_of_next {level : Bool} {levels : List Bool} {s t : State}
    (h : exec (.tick level 0) s = .next t) : runTicks (level :: levels) s = runTicks levels t := by
  rw [runTicks, h, andThen_next]

theorem runTicks_append_of_next {a b : List Bool} {s t : State} (h : runTicks a s = .next t) :
    runTicks (a ++ b) s = runTicks b t := by
  rw [runTicks_append, h, andThen_next]

/-! ### The end of `Receiving` (R131) -/

/-- The ticks in which a phase cannot stay within its limit. -/
def phaseTicks (cfg : Config) : Nat := max frameGapUs (markAbortUs cfg) / cfg.tickUs + 1

/-- How far a frame has come: so many ticks for each recorded phase, and those of the phase that runs. -/
def frameProgress (s : State) : Nat :=
  s.bufIdx * phaseTicks s.cfg + (s.duration s.clock).toNat / s.cfg.tickUs

theorem phaseLimit_le_max (cfg : Config) (level : Bool) :
    phaseLimit cfg level ≤ max frameGapUs (markAbortUs cfg) := by
  cases level
  · exact Nat.le_max_right _ _
  · exact Nat.le_max_left _ _

/-- In `Receiving` the running phase is still short of its ticks. -/
theorem runningTicks_lt {s : State} (h : Inv s) (hr : s.rxState = .receiving) :
    (s.duration s.clock).toNat / s.cfg.tickUs < phaseTicks s.cfg :=
  Nat.lt_succ_of_le (Nat.div_le_div_right ((h.durationBounded hr).trans (phaseLimit_le_max s.cfg s.prevLevel)))

theorem frameProgress_lt {s : State} (h : Inv s) (hr : s.rxState = .receiving) :
    frameProgress s < (s.cfg.bufCapacity + 1) * phaseTicks s.cfg := by
  have hrunning := runningTicks_lt h hr
  have hphases : s.bufIdx * phaseTicks s.cfg ≤ s.cfg.bufCapacity * phaseTicks s.cfg :=
    Nat.mul_le_mul_right _ h.bufIdxBounded
  rw [frameProgress, Nat.succ_mul]
  omega

/-- The running duration after one more fire of the tick source. -/
theorem duration_advance {s : State} (h : Inv s) (hr : s.rxState = .receiving) (hT : s.cfg.tickUs < 2 ^ 31) :
    (s.duration (s.advanceClock 1).clock).toNat = (s.duration s.clock).toNat + s.cfg.tickUs := by
  have hlimit := (h.durationBounded hr).trans (phaseLimit_le h.cfgLegal s.prevLevel)
  rw [State.duration] at hlimit
  rw [State.duration, advanceClock_clock, Nat.one_mul]
  exact elapsed_advance (by omega)

/-- A normative tick in `Receiving` leaves it or brings the frame on: a phase is recorded before its ticks are used up, and
one that runs on has used up one more. -/
theorem exec_tick_progress {s : State} (h : Inv s) (hr : s.rxState = .receiving) (hT : s.cfg.tickUs < 2 ^ 31)
    (level : Bool) :
    ∃ t, exec (.tick level 0) s = .next t ∧ Inv t ∧ t.cfg = s.cfg ∧
      (t.rxState = .receiving → frameProgress s < frameProgress t) := by
  have htick := exec_tick_receiving (irIn := level) (missed := 0) hr rfl
  obtain ⟨hcfg, -⟩ := exec_tick_cfg_clock htick
  refine ⟨_, htick, inv_tickPass h htick, hcfg, fun hstays => ?_⟩
  have hpos : 0 < s.cfg.tickUs := tickUs_pos h.cfgLegal
  rcases receivingArm_cases (s.advanceClock (0 + 1)).clock level (s.advanceClock (0 + 1)) with
    ⟨-, -, e⟩ | ⟨-, -, e⟩ | ⟨-, -, -, e⟩ | ⟨-, -, -, e⟩ | ⟨-, -, e⟩ <;> rw [e] at hstays ⊢
  · show frameProgress s < (s.bufIdx + 1) * phaseTicks s.cfg + _
    rw [frameProgress, Nat.succ_mul]
    exact (Nat.add_lt_add_left (runningTicks_lt h hr) _).trans_le (Nat.le_add_right _ _)
  · cases hstays
  · cases hstays
  · cases hstays
  · show frameProgress s < s.bufIdx * phaseTicks s.cfg + (s.duration (s.advanceClock 1).clock).toNat / s.cfg.tickUs
    rw [duration_advance h hr hT, Nat.add_div_right _ hpos, frameProgress]
    omega

/-- So many ticks as the frame has progress left end it. -/
theorem runTicks_leave_receiving {levels : List Bool} {s : State} (h : Inv s) (hr : s.rxState = .receiving)
    (hT : s.cfg.tickUs < 2 ^ 31)
    (hlen : (s.cfg.bufCapacity + 1) * phaseTicks s.cfg ≤ frameProgress s + levels.length) :
    ∃ n t, n ≤ levels.length ∧ runTicks (levels.take n) s = .next t ∧ t.rxState ≠ .receiving := by
  induction levels generalizing s with
  | nil => exact absurd (frameProgress_lt h hr) (Nat.not_lt_of_le hlen)
  | cons level levels ih =>
    obtain ⟨t, ht, hinv, hcfg, hprogress⟩ := exec_tick_progress h hr hT level
    by_cases hstays : t.rxState = .receiving
    case neg => exact ⟨1, t, by simp, (runTicks_cons_of_next (levels := []) ht).trans rfl, hstays⟩
    case pos =>
      have hmore := hprogress hstays
      rw [List.length_cons] at hlen
      obtain ⟨n, u, hn, hu, hleft⟩ := ih hinv hstays (hcfg ▸ hT) (by rw [hcfg]; omega)
      exact ⟨n + 1, u, Nat.succ_le_succ hn, (runTicks_cons_of_next ht).trans hu, hleft⟩

/-- Settles O57: the progress of a frame is bounded and every tick in `Receiving` raises it. -/
theorem receivingEnds : Obligations.ReceivingEnds :=
  fun _ _ h hr hT hlen => runTicks_leave_receiving h hr hT (hlen.trans (Nat.le_add_left _ _))

/-! ### The length of a channel's phase (R176, R180) -/

/-- What the time since a channel's transition must exceed for the next one (R173, R174). -/
def phaseThreshold (c : Channel) : Nat :=
  if c.level then c.pulseTime.toNat else pwmPeriodUs - c.pulseTime.toNat

theorem phaseThreshold_le {c : Channel} (hp : c.pulseTime.toNat ≤ pwmPeriodUs) : phaseThreshold c ≤ pwmPeriodUs := by
  rw [phaseThreshold]
  split
  · exact hp
  · exact Nat.sub_le _ _

theorem turned_within {c : Channel} {now : U32} (hp : c.pulseTime.toNat ≤ pwmPeriodUs)
    (h : (now - c.lastTransition).toNat ≤ phaseThreshold c) : turned now c = c := by
  refine turned_of_not_due (fun hdue => ?_) (fun hdue => ?_)
  · obtain ⟨hhigh, habove⟩ := (fallDue_iff c now).1 hdue
    rw [phaseThreshold, if_pos hhigh] at h
    omega
  · obtain ⟨hlow, habove⟩ := (riseDue_iff c now).1 hdue
    rw [phaseThreshold, if_neg (by simp [hlow])] at h
    omega

theorem turned_beyond {c : Channel} {now : U32} (h : phaseThreshold c < (now - c.lastTransition).toNat) :
    turned now c = { c with level := !c.level, lastTransition := now } := by
  cases hl : c.level with
  | true =>
    rw [phaseThreshold, if_pos hl] at h
    exact turned_of_fallDue ((fallDue_iff c now).2 ⟨hl, h⟩)
  | false =>
    rw [phaseThreshold, if_neg (by simp [hl])] at h
    exact turned_of_riseDue ((riseDue_iff c now).2 ⟨hl, by omega⟩)

theorem exec_tick_completes {s : State} (hs : s.handlerSet = false) (level : Bool) (missed : Nat) :
    ∃ t, exec (.tick level missed) s = .next t := by
  rcases exec_tick_completes_or_handled s level missed with hcompletes | ⟨-, hset, -⟩
  · exact hcompletes
  · rw [hs] at hset
    cases hset

theorem elapsed_of_phase_start {x : U32} {d : Nat} (h : d < 2 ^ 32) : (x + BitVec.ofNat 32 d - x).toNat = d := by
  rw [elapsed_advance (by simpa using h), BitVec.sub_self]
  exact Nat.zero_add d

/-- A channel's turn in a normative tick without a handler, `m` ticks after its transition. -/
theorem exec_tick_channel {s t : State} {k m : Nat} {c : Channel} {level : Bool} (hs : s.handlerSet = false)
    (hc : s.ch[k]? = some c) (hm : s.clock = c.lastTransition + BitVec.ofNat 32 (m * s.cfg.tickUs))
    (ht : exec (.tick level 0) s = .next t) :
    t.handlerSet = false ∧ t.cfg = s.cfg ∧ t.clock = c.lastTransition + BitVec.ofNat 32 ((m + 1) * s.cfg.tickUs) ∧
      t.ch[k]? = some (turned t.clock c) := by
  obtain ⟨hcfg, hclock⟩ := exec_tick_cfg_clock ht
  obtain ⟨hch, hset⟩ := exec_tick_ch hs ht
  refine ⟨hset, hcfg, ?_, ?_⟩
  · rw [hclock, hm, BitVec.add_assoc, ← BitVec.ofNat_add, ← Nat.add_mul]
  · rw [hch, List.getElem?_map, hc, hclock]
    rfl

/-- A channel stays as it is while the ticks since its transition are within the threshold. -/
theorem runTicks_within_phase {levels : List Bool} {s : State} {k m : Nat} {c : Channel} (hs : s.handlerSet = false)
    (hc : s.ch[k]? = some c) (hm : s.clock = c.lastTransition + BitVec.ofNat 32 (m * s.cfg.tickUs))
    (hle : (m + levels.length) * s.cfg.tickUs ≤ phaseThreshold c) (hp : c.pulseTime.toNat ≤ pwmPeriodUs) :
    ∃ t, runTicks levels s = .next t ∧ t.handlerSet = false ∧ t.cfg = s.cfg ∧ t.ch[k]? = some c ∧
      t.clock = c.lastTransition + BitVec.ofNat 32 ((m + levels.length) * s.cfg.tickUs) := by
  induction levels generalizing s m with
  | nil => exact ⟨s, rfl, hs, rfl, hc, hm⟩
  | cons level levels ih =>
    obtain ⟨t, ht⟩ := exec_tick_completes hs level 0
    obtain ⟨hset, hcfg, hclock, hturned⟩ := exec_tick_channel hs hc hm ht
    have hlen : m + (levels.length + 1) = m + 1 + levels.length := by omega
    rw [List.length_cons, hlen] at hle ⊢
    have hnow : (m + 1) * s.cfg.tickUs ≤ phaseThreshold c :=
      (Nat.mul_le_mul_right _ (Nat.le_add_right _ _)).trans hle
    have hfit := phaseThreshold_le hp
    rw [pwmPeriodUs] at hfit
    rw [turned_within hp (by rw [hclock, elapsed_of_phase_start (by omega)]; exact hnow)] at hturned
    obtain ⟨u, hu, hrest⟩ := ih (m := m + 1) hset hturned (hcfg ▸ hclock) (hcfg ▸ hle)
    rw [hcfg] at hrest
    exact ⟨u, (runTicks_cons_of_next ht).trans hu, hrest⟩

/-- Settles O58: `n` ticks stay within the threshold, one more exceeds it, and neither wraps the elapsed time. -/
theorem phasesLastOneTickOverTheirThreshold : Obligations.PhasesLastOneTickOverTheirThreshold := by
  intro s k c levels h hs hT hc hstart n
  have hpos : 0 < s.cfg.tickUs := tickUs_pos h.cfgLegal
  have hp : c.pulseTime.toNat ≤ pwmPeriodUs := by
    obtain ⟨-, hmax⟩ := h.pulseRange c (List.mem_of_getElem? hc)
    exact hmax.trans (by decide)
  have hthreshold := phaseThreshold_le hp
  rw [pwmPeriodUs] at hthreshold
  have hn : n * s.cfg.tickUs ≤ phaseThreshold c := Nat.div_mul_le_self _ _
  have hbegin : s.clock = c.lastTransition + BitVec.ofNat 32 (0 * s.cfg.tickUs) := by simp [hstart]
  have hwithin {levels : List Bool} (hlen : levels.length ≤ n) :=
    runTicks_within_phase (levels := levels) hs hc hbegin
      ((Nat.mul_le_mul_right _ (by omega)).trans hn) hp
  constructor
  · intro hlen
    obtain ⟨t, ht, -, -, hsame, -⟩ := hwithin hlen
    exact ⟨t, ht, hsame, runTicks_clock ht⟩
  · intro hlen
    obtain ⟨a, level, rfl⟩ : ∃ a level, levels = a ++ [level] :=
      (List.eq_nil_or_concat' levels).resolve_left (by rintro rfl; cases hlen)
    rw [List.length_append, List.length_singleton, Nat.add_right_cancel_iff] at hlen
    obtain ⟨u, hu, hset, hcfg, hsame, hclock⟩ := hwithin hlen.le
    obtain ⟨t, ht⟩ := exec_tick_completes hset level 0
    rw [Nat.zero_add, hlen, ← hcfg] at hclock
    obtain ⟨-, -, hnow, hturned⟩ := exec_tick_channel hset hsame hclock ht
    have hbeyond : phaseThreshold c < (n + 1) * s.cfg.tickUs := by
      rw [Nat.mul_comm]
      exact Nat.lt_mul_div_succ _ hpos
    rw [hcfg] at hnow
    rw [turned_beyond (by rw [hnow, elapsed_of_phase_start (by rw [Nat.add_mul]; omega)]; exact hbeyond)] at hturned
    exact ⟨t, by rw [runTicks_append_of_next hu, runTicks_cons_of_next ht, runTicks], hturned, hstart ▸ hnow⟩

/-! ### The recording of a waveform (R86, R105, R132) -/

/-- The decoder is `m` ticks into a phase at `level` of a frame whose phases before it lasted `ds`. -/
structure Recording (cfg : Config) (last : Option Command) (level : Bool) (ds : List U32) (m : Nat) (s : State) :
    Prop where
  cfgKept : s.cfg = cfg
  cacheKept : s.lastCmd = last
  receiving : s.rxState = .receiving
  sampled : s.prevLevel = level
  recorded : s.entries = ds
  measured : s.clock = s.edgeRef + BitVec.ofNat 32 (m * cfg.tickUs)

theorem entries_length (s : State) : s.entries.length = s.bufIdx := by
  rw [State.entries, List.length_map, List.length_range]

/-- An append is one more entry, and no other changes. -/
theorem entries_appendEdge (now : U32) (s : State) : (appendEdge now s).entries = s.entries ++ [s.duration now] := by
  simp only [State.entries, State.slot, appendEdge_bufIdx, appendEdge_buf, List.range_succ, List.map_append, List.map_cons,
    List.map_nil, Memory.read_write_same, Option.getD_some]
  refine congrArg (· ++ _) (List.map_congr_left fun k hk => ?_)
  rw [State.slot, State.slot, appendEdge_buf, Memory.read_write_other _ _ _ _ (Nat.ne_of_lt (List.mem_range.1 hk))]

section
variable {now : U32} {level : Bool} {s : State}

theorem receivingArm_of_edge (h : level ≠ s.prevLevel) (hroom : s.bufIdx < s.cfg.bufCapacity) :
    receivingArm now level s = appendEdge now s := by
  rw [receivingArm, if_pos h, if_pos hroom]

theorem receivingArm_of_held (h : level = s.prevLevel) (hle : (s.duration now).toNat ≤ phaseLimit s.cfg level) :
    receivingArm now level s = s := by
  rcases receivingArm_cases now level s with
    ⟨hedge, -⟩ | ⟨hedge, -⟩ | ⟨-, rfl, habove, -⟩ | ⟨-, rfl, habove, -⟩ | ⟨-, -, e⟩
  · exact absurd h hedge
  · exact absurd h hedge
  · exact absurd hle (Nat.not_le_of_lt habove)
  · exact absurd hle (Nat.not_le_of_lt habove)
  · exact e

theorem receivingArm_of_gap (h : level = s.prevLevel) (hhigh : level = true)
    (habove : frameGapUs < (s.duration now).toNat) : receivingArm now level s = frameEnd s := by
  rw [receivingArm, if_neg (not_not_intro h), if_pos ⟨hhigh, (gapExceeded_iff s now).2 habove⟩]

end

/-- The falling edge in `Idle` begins a frame, its first phase a mark. -/
theorem recording_start {s : State} (hr : s.rxState = .idle) (hp : s.prevLevel = true) :
    ∃ t, exec (.tick false 0) s = .next t ∧ Recording s.cfg s.lastCmd false [] 0 t := by
  refine ⟨_, exec_tick_idle hr rfl, ?_⟩
  rw [idleArm, if_pos ⟨hp, rfl⟩]
  exact ⟨rfl, rfl, rfl, rfl, rfl, by simp [turnChannels, State.sample, startFrame]⟩

section
variable {cfg : Config} {last : Option Command} {level : Bool} {ds : List U32} {m : Nat} {s : State}
  (h : Recording cfg last level ds m s)
include h

/-- The next tick is one more tick after the phase's edge. -/
theorem Recording.clock_tick :
    (s.advanceClock (0 + 1)).clock = s.edgeRef + BitVec.ofNat 32 ((m + 1) * cfg.tickUs) := by
  rw [advanceClock_clock, h.measured, h.cfgKept, BitVec.add_assoc, ← BitVec.ofNat_add, ← Nat.add_mul]

theorem Recording.duration_tick :
    s.duration (s.advanceClock (0 + 1)).clock = BitVec.ofNat 32 ((m + 1) * cfg.tickUs) := by
  rw [State.duration, h.clock_tick, BitVec.add_comm, BitVec.add_sub_cancel]

theorem Recording.duration_tick_toNat (hfit : (m + 1) * cfg.tickUs < 2 ^ 32) :
    (s.duration (s.advanceClock (0 + 1)).clock).toNat = (m + 1) * cfg.tickUs := by
  rw [h.duration_tick, BitVec.toNat_ofNat, Nat.mod_eq_of_lt hfit]

/-- Within its limit a phase that is held runs on. -/
theorem Recording.hold (hl : cfg.legal = true) (hle : (m + 1) * cfg.tickUs ≤ phaseLimit cfg level) :
    ∃ t, exec (.tick level 0) s = .next t ∧ Recording cfg last level ds (m + 1) t := by
  have hlimit := phaseLimit_le hl level
  have hwithin : (s.duration (s.advanceClock (0 + 1)).clock).toNat ≤ phaseLimit s.cfg level := by
    rw [h.duration_tick_toNat (by omega), h.cfgKept]
    exact hle
  refine ⟨_, exec_tick_receiving h.receiving rfl, ?_⟩
  rw [receivingArm_of_held (s := s.advanceClock (0 + 1)) h.sampled.symm hwithin]
  exact ⟨h.cfgKept, h.cacheKept, h.receiving, rfl, h.recorded, h.clock_tick⟩

/-- An edge records the phase and begins the next. -/
theorem Recording.edge (hroom : ds.length < cfg.bufCapacity) :
    ∃ t, exec (.tick (!level) 0) s = .next t ∧
      Recording cfg last (!level) (ds ++ [BitVec.ofNat 32 ((m + 1) * cfg.tickUs)]) 0 t := by
  have hedge : (!level) ≠ s.prevLevel := by simp [h.sampled]
  have hspace : s.bufIdx < s.cfg.bufCapacity := by
    rw [← entries_length, h.recorded, h.cfgKept]
    exact hroom
  refine ⟨_, exec_tick_receiving h.receiving rfl, ?_⟩
  rw [receivingArm_of_edge (s := s.advanceClock (0 + 1)) hedge hspace]
  refine ⟨h.cfgKept, h.cacheKept, h.receiving, rfl, ?_, ?_⟩
  · refine (entries_appendEdge _ (s.advanceClock (0 + 1))).trans ?_
    rw [← h.duration_tick, ← h.recorded]
    rfl
  · simp [turnChannels, State.sample, appendEdge]

/-- A high level held past the frame gap ends the frame, the gap not recorded. -/
theorem Recording.gap (hhigh : level = true) (habove : frameGapUs < (m + 1) * cfg.tickUs)
    (hfit : (m + 1) * cfg.tickUs < 2 ^ 32) :
    ∃ t, exec (.tick true 0) s = .next t ∧ t.rxState = .done ∧ t.entries = ds ∧ t.lastCmd = last ∧
      t.prevLevel = true ∧ t.cfg = cfg := by
  have hgap : frameGapUs < (s.duration (s.advanceClock (0 + 1)).clock).toNat := by
    rw [h.duration_tick_toNat hfit]
    exact habove
  refine ⟨_, exec_tick_receiving h.receiving rfl, ?_⟩
  rw [receivingArm_of_gap (s := s.advanceClock (0 + 1)) (h.sampled.trans hhigh).symm rfl hgap]
  exact ⟨rfl, h.recorded, h.cacheKept, rfl, h.cfgKept⟩

end

/-- Ticks at the level of a phase, within its limit. -/
theorem Recording.holds {cfg : Config} {last : Option Command} {level : Bool} {ds : List U32} {m : Nat} {s : State}
    (h : Recording cfg last level ds m s) (hl : cfg.legal = true) (n : Nat)
    (hle : (m + n) * cfg.tickUs ≤ phaseLimit cfg level) :
    ∃ t, runTicks (List.replicate n level) s = .next t ∧ Recording cfg last level ds (m + n) t := by
  induction n generalizing m s with
  | zero => exact ⟨s, rfl, h⟩
  | succ n ih =>
    have hlen : m + (n + 1) = m + 1 + n := by omega
    rw [hlen] at hle ⊢
    obtain ⟨t, ht, hrec⟩ := h.hold hl ((Nat.mul_le_mul_right _ (Nat.le_add_right _ _)).trans hle)
    obtain ⟨u, hu, hrec'⟩ := ih hrec hle
    exact ⟨u, (runTicks_cons_of_next ht).trans hu, hrec'⟩

/-! ### Waveforms as edges -/

/-- Phases that the decoder can record: the tick before the closing edge is within the limit of the phase. -/
def PhasesFit (cfg : Config) : Bool → List Nat → Prop
  | _, [] => True
  | level, n :: ns => 1 ≤ n ∧ (n - 1) * cfg.tickUs ≤ phaseLimit cfg level ∧ PhasesFit cfg (!level) ns

theorem phasesFit_of_getElem? {cfg : Config} {level : Bool} {ns : List Nat}
    (h : ∀ k n, ns[k]? = some n →
      1 ≤ n ∧ (n - 1) * cfg.tickUs ≤ phaseLimit cfg (if k % 2 = 0 then level else !level)) : PhasesFit cfg level ns := by
  induction ns generalizing level with
  | nil => trivial
  | cons n ns ih =>
    obtain ⟨hpos, hle⟩ := h 0 n rfl
    refine ⟨hpos, hle, ih fun k m hk => ?_⟩
    have hshift := h (k + 1) m hk
    rcases Nat.mod_two_eq_zero_or_one k with hk2 | hk2
    · rw [if_neg (by omega)] at hshift
      rwa [if_pos hk2]
    · rw [if_pos (by omega)] at hshift
      rwa [if_neg (by omega), Bool.not_not]

/-- The level after these phases. -/
def levelAfter (level : Bool) (ns : List Nat) : Bool := if ns.length % 2 = 0 then level else !level

theorem levelAfter_cons (level : Bool) (n : Nat) (ns : List Nat) : levelAfter level (n :: ns) = levelAfter (!level) ns := by
  rw [levelAfter, levelAfter, List.length_cons]
  rcases Nat.mod_two_eq_zero_or_one ns.length with hk2 | hk2
  · rw [if_neg (by omega), if_pos hk2]
  · rw [if_pos (by omega), if_neg (by omega), Bool.not_not]

/-- The levels of phases after the first level of the first one, up to the first level after them: each phase is held and
closed by its edge. -/
def heldAndClosed (level : Bool) : List Nat → List Bool
  | [] => []
  | n :: ns => List.replicate (n - 1) level ++ (!level) :: heldAndClosed (!level) ns

theorem waveform_closed {cfg : Config} {level : Bool} {ns : List Nat} (h : PhasesFit cfg level ns) :
    waveform level ns ++ [levelAfter level ns] = level :: heldAndClosed level ns := by
  induction ns generalizing level with
  | nil => rfl
  | cons n ns ih =>
    obtain ⟨hpos, -, hrest⟩ := h
    rw [waveform, List.append_assoc, levelAfter_cons, ih hrest, heldAndClosed, ← List.cons_append, ← List.replicate_succ,
      Nat.sub_add_cancel hpos]

/-- Phases that fit are recorded one after the other. -/
theorem Recording.phases {cfg : Config} {last : Option Command} {level : Bool} {ds : List U32} {ns : List Nat} {s : State}
    (h : Recording cfg last level ds 0 s) (hl : cfg.legal = true) (hfit : PhasesFit cfg level ns)
    (hroom : ds.length + ns.length ≤ cfg.bufCapacity) :
    ∃ t, runTicks (heldAndClosed level ns) s = .next t ∧
      Recording cfg last (levelAfter level ns) (ds ++ ns.map fun n => BitVec.ofNat 32 (n * cfg.tickUs)) 0 t := by
  induction ns generalizing level ds s with
  | nil => exact ⟨s, rfl, by simpa [levelAfter] using h⟩
  | cons n ns ih =>
    obtain ⟨hpos, hle, hrest⟩ := hfit
    rw [List.length_cons] at hroom
    obtain ⟨t, ht, hheld⟩ := h.holds hl (n - 1) (by rwa [Nat.zero_add])
    obtain ⟨u, hu, hclosed⟩ := hheld.edge (by omega)
    rw [Nat.zero_add, Nat.sub_add_cancel hpos] at hclosed
    obtain ⟨w, hw, hphases⟩ := ih hclosed hrest (by rw [List.length_append, List.length_singleton]; omega)
    refine ⟨w, ?_, ?_⟩
    · rw [heldAndClosed, runTicks_append_of_next ht, runTicks_cons_of_next hu, hw]
    · rwa [List.append_assoc, ← levelAfter_cons level n] at hphases

/-- Settles O59: the first falling edge begins the frame, the phases are recorded edge by edge, and the high level that
follows is held to the frame gap and past it. -/
theorem waveformsAreRecorded : Obligations.WaveformsAreRecorded := by
  intro s ns hl hr hp hT hodd hroom hphases
  have hpos : 0 < s.cfg.tickUs := tickUs_pos hl
  have hfit : PhasesFit s.cfg false ns := by
    refine phasesFit_of_getElem? fun k n hk => ?_
    obtain ⟨hn, hle⟩ := hphases k n hk
    refine ⟨hn, hle.trans_eq ?_⟩
    rw [apply_ite (phaseLimit s.cfg)]
    rfl
  have hlevel : levelAfter false ns = true := by
    rw [levelAfter, if_neg (by omega)]
    rfl
  have hclosed : waveform false ns ++ [true] = false :: heldAndClosed false ns := hlevel ▸ waveform_closed hfit
  have hgap : frameGapUs / s.cfg.tickUs * s.cfg.tickUs ≤ frameGapUs := Nat.div_mul_le_self _ _
  have habove : frameGapUs < (frameGapUs / s.cfg.tickUs + 1) * s.cfg.tickUs := by
    rw [Nat.mul_comm]
    exact Nat.lt_mul_div_succ _ hpos
  obtain ⟨t0, ht0, hstart⟩ := recording_start hr hp
  obtain ⟨t1, ht1, hrecorded⟩ := hstart.phases hl hfit (by simpa using hroom)
  obtain ⟨t2, ht2, hheld⟩ := hrecorded.holds hl (frameGapUs / s.cfg.tickUs) (by
    rw [Nat.zero_add, hlevel]
    exact hgap)
  rw [Nat.zero_add] at hheld
  obtain ⟨t3, ht3, hdone, hentries, hlast, hprev, hcfg⟩ := hheld.gap hlevel habove (by
    rw [frameGapUs] at hgap ⊢
    rw [Nat.add_mul]
    omega)
  refine ⟨t3, ?_, hdone, hentries, hlast, hprev, hcfg⟩
  rw [hlevel] at ht2
  rw [List.replicate_succ, List.append_cons, hclosed, List.replicate_succ', List.cons_append,
    runTicks_cons_of_next ht0, runTicks_append_of_next ht1, runTicks_append_of_next ht2, runTicks_cons_of_next ht3,
    runTicks]

end Sys2Proof.Machine
